-- ==== Sys2Proof/Word.lean ====
section
/-! DEFINITION. The word types of the block (spec/00_scope.md R6, R8): everything is unsigned. -/

namespace Sys2Proof

/-- One octet of a stream, of the buffer or of a command (R6: octet width 8). Bit 7 is the most significant (R7). -/
abbrev Octet := BitVec 8

/-- A buffer address, a count or a payload length (R6: 64 bits, unsigned). -/
abbrev U64 := BitVec 64

end Sys2Proof
end

