-- ==== Sys2Proof/Config.lean ====
section
/-! DEFINITION. What the spec leaves to the implementation or the environment (spec/00_scope.md R6) and the free values
(spec/93_implementation_defined.md U6, U7). Every constant here is opaque: no proof can see its value. -/

namespace Sys2Proof

/-- How many further octets the TX stream accepts: a natural number or infinity (R34). -/
inductive Capacity where
  | octets (n : Nat)
  | unlimited
deriving DecidableEq, Repr, Inhabited

/-- BUFCAP with its bound, 0 to 2^64 inclusive (R6, OPEN; log entry 1). -/
opaque Config.bufcapBounded : Fin (2 ^ 64 + 1)

/-- BUFCAP, the number of octets of the payload buffer (R6, OPEN; log entry 1). -/
def Config.bufcap : Nat := Config.bufcapBounded.val

/-- The octets the RX stream will deliver before it ends (R6, R33, OPEN; log entry 1). -/
opaque Config.rxInit : List Octet

/-- How many octets the TX stream will accept before a write falls short (R6, R34, OPEN; log entry 1). -/
opaque Config.txcapInit : Capacity

/-- FREE VALUE. The octet that buffer address `a` holds after power-on, before anything writes it (R27, U7; log entry 2).
It depends on the address alone, so two reads of one unwritten address agree. -/
opaque Config.powerOnOctet : Nat → Octet

/-- FREE VALUE. The octet at address `a` after the `k`-th failed `LDBUF` whose range holds `a` (R190, R278 (e), U6;
log entry 3). -/
opaque Config.shortReadOctet : Nat → Nat → Octet

end Sys2Proof
end

