-- ==== Sys2Proof/Syntax.lean ====
section
/-! DEFINITION. The instructions: one constructor per row of spec/opcode_table.json (47 rows in three spaces). -/

namespace Sys2Proof

/-- One constructor per row of the opcode table.

Rows of kind `command` and `command-reserved` are what the host delivers on the command port (R100, R101, R107). Rows of kind
`wire` are forms of octets on the streams: a leading octet (format W0, R91) or a length field (format W1, R93). A wire row is
never delivered on the command port; its meaning is that the field stands at the front of the RX stream and the operation that
reads its format runs (log entry 8).

Operands are carried exactly as their octets spell them, reserved bits included, so that every encodable form has a meaning. -/
inductive Instr where
  /-- `DECHDR` (R132): decode one leading octet from the RX stream. -/
  | dechdr
  /-- `ENCHDR opc, fin` (R133): the operand octet is `h = {fin, opc[6:0]}` (R103). -/
  | enchdr (opc : BitVec 7) (fin : Bool)
  /-- `DECLEN` (R153): decode one length field from the RX stream. -/
  | declen
  /-- `ENCLEN m, len` (R154): the operand octet is `f = {rsv, m}` with `rsv = f[7:1]` reserved zero (R103). -/
  | enclen (rsv : BitVec 7) (m : Bool) (len : U64)
  /-- `LDKEY` (R171): read a masking key from the RX stream. -/
  | ldkey
  /-- `SETKEY k0, k1, k2, k3` (R172). -/
  | setkey (k0 k1 k2 k3 : Octet)
  /-- `STKEY` (R173): send the masking key. -/
  | stkey
  /-- `APPLYMASK a, n` (R174); also written `MASK a, n` and `UNMASK a, n` (R111). -/
  | applymask (a n : U64)
  /-- `LDBUF a, n` (R190). -/
  | ldbuf (a n : U64)
  /-- `STBUF a, n` (R191). -/
  | stbuf (a n : U64)
  /-- `WRBUF a, v` (R192). -/
  | wrbuf (a : U64) (v : Octet)
  /-- `RDBUF a` (R193). -/
  | rdbuf (a : U64)
  /-- `RDREG r` (R210). -/
  | rdreg (r : Octet)
  /-- `WRREG r, v` (R211). -/
  | wrreg (r v : Octet)
  /-- `RESET` (R212). -/
  | reset
  /-- Row RESERVED_00 (R107): the command code 0x00. -/
  | reserved00
  /-- Row RESERVED_10 (R107): a command code `cc` matching 0x10 under mask 0xF0. -/
  | reserved10 (cc : Octet)
  /-- Row RESERVED_20 (R107): a command code `cc` matching 0x20 under mask 0xE0. -/
  | reserved20 (cc : Octet)
  /-- Row RESERVED_40 (R107): a command code `cc` matching 0x40 under mask 0xC0. -/
  | reserved40 (cc : Octet)
  /-- Row RESERVED_80 (R107): a command code `cc` matching 0x80 under mask 0x80. -/
  | reserved80 (cc : Octet)
  /-- Row W0.CONTINUATION (R237, R91, R92): the leading octet with opcode 0x0 and reserved bits 0. -/
  | w0Continuation (fin : Bool)
  /-- Row W0.TEXT (R238, R91, R92): the leading octet with opcode 0x1 and reserved bits 0. -/
  | w0Text (fin : Bool)
  /-- Row W0.BINARY (R238, R91, R92): the leading octet with opcode 0x2 and reserved bits 0. -/
  | w0Binary (fin : Bool)
  /-- Row W0.UNKNOWN_3 (R241, R91, R92): the leading octet with opcode 0x3 and reserved bits 0. -/
  | w0Unknown3 (fin : Bool)
  /-- Row W0.UNKNOWN_4 (R241, R91, R92): the leading octet with opcode 0x4 and reserved bits 0. -/
  | w0Unknown4 (fin : Bool)
  /-- Row W0.UNKNOWN_5 (R241, R91, R92): the leading octet with opcode 0x5 and reserved bits 0. -/
  | w0Unknown5 (fin : Bool)
  /-- Row W0.UNKNOWN_6 (R241, R91, R92): the leading octet with opcode 0x6 and reserved bits 0. -/
  | w0Unknown6 (fin : Bool)
  /-- Row W0.UNKNOWN_7 (R241, R91, R92): the leading octet with opcode 0x7 and reserved bits 0. -/
  | w0Unknown7 (fin : Bool)
  /-- Row W0.CLOSE (R239, R91, R92): the leading octet with opcode 0x8 and reserved bits 0. -/
  | w0Close (fin : Bool)
  /-- Row W0.PING (R240, R91, R92): the leading octet with opcode 0x9 and reserved bits 0. -/
  | w0Ping (fin : Bool)
  /-- Row W0.PONG (R240, R91, R92): the leading octet with opcode 0xA and reserved bits 0. -/
  | w0Pong (fin : Bool)
  /-- Row W0.UNKNOWN_B (R241, R91, R92): the leading octet with opcode 0xB and reserved bits 0. -/
  | w0UnknownB (fin : Bool)
  /-- Row W0.UNKNOWN_C (R241, R91, R92): the leading octet with opcode 0xC and reserved bits 0. -/
  | w0UnknownC (fin : Bool)
  /-- Row W0.UNKNOWN_D (R241, R91, R92): the leading octet with opcode 0xD and reserved bits 0. -/
  | w0UnknownD (fin : Bool)
  /-- Row W0.UNKNOWN_E (R241, R91, R92): the leading octet with opcode 0xE and reserved bits 0. -/
  | w0UnknownE (fin : Bool)
  /-- Row W0.UNKNOWN_F (R241, R91, R92): the leading octet with opcode 0xF and reserved bits 0. -/
  | w0UnknownF (fin : Bool)
  /-- Row W0.RSV_SET_40 (R105): a leading octet `b` matching 0x40 under mask 0x40. -/
  | w0RsvSet40 (b : Octet)
  /-- Row W0.RSV_SET_20 (R105): a leading octet `b` matching 0x20 under mask 0x60. -/
  | w0RsvSet20 (b : Octet)
  /-- Row W0.RSV_SET_10 (R105): a leading octet `b` matching 0x10 under mask 0x70. -/
  | w0RsvSet10 (b : Octet)
  /-- Row W1.INLINE_00 (R94): the length octet with mask flag `m` and a length code `c` in 0..63. -/
  | w1Inline00 (m : Bool) (c : BitVec 7)
  /-- Row W1.INLINE_40 (R94): the length octet with mask flag `m` and a length code `c` in 64..95. -/
  | w1Inline40 (m : Bool) (c : BitVec 7)
  /-- Row W1.INLINE_60 (R94): the length octet with mask flag `m` and a length code `c` in 96..111. -/
  | w1Inline60 (m : Bool) (c : BitVec 7)
  /-- Row W1.INLINE_70 (R94): the length octet with mask flag `m` and a length code `c` in 112..119. -/
  | w1Inline70 (m : Bool) (c : BitVec 7)
  /-- Row W1.INLINE_78 (R94): the length octet with mask flag `m` and a length code `c` in 120..123. -/
  | w1Inline78 (m : Bool) (c : BitVec 7)
  /-- Row W1.INLINE_7C (R94): the length octet with mask flag `m` and a length code `c` in 124..125. -/
  | w1Inline7C (m : Bool) (c : BitVec 7)
  /-- Row W1.EXT16 (R95): length code 126 and a 16-bit extended length. -/
  | w1Ext16 (m : Bool) (len : BitVec 16)
  /-- Row W1.EXT64 (R96): length code 127 and a 64-bit extended length. -/
  | w1Ext64 (m : Bool) (len : U64)
deriving DecidableEq, Repr

/-- Pseudo-operation `MASK a, n` (R111). -/
abbrev Instr.mask (a n : U64) : Instr := .applymask a n

/-- Pseudo-operation `UNMASK a, n` (R111). -/
abbrev Instr.unmask (a n : U64) : Instr := .applymask a n

/-- The spaces of the opcode table: the command port, the leading octets, the length fields. -/
inductive Space where
  | command
  | w0
  | w1
deriving DecidableEq, Repr

end Sys2Proof
end

