-- ==== Sys2Proof/WellFormed.lean ====
section
/-! DEFINITION. Which terms of Instr are a row's own words: a row with free bits constrains its octet by the table's match and
mask, and a reserved command code lies in its row (spec/opcode_table.json; R94, R105, R107). -/

namespace Sys2Proof

/-- `v` matches a table row's `match` under its `mask`. -/
abbrev matches8 (v mask want : Octet) : Bool := v &&& mask == want

/-- The length code `c` matches a W1 row's `match` under its `mask` (the mask flag, bit 7, is free in every W1 row). -/
abbrev matches7 (c mask want : BitVec 7) : Bool := c &&& mask == want

/-- The space of a row of the opcode table. -/
def Instr.space : Instr → Space
  | .dechdr | .enchdr _ _ | .declen | .enclen _ _ _ | .ldkey | .setkey _ _ _ _ | .stkey | .applymask _ _ => .command
  | .ldbuf _ _ | .stbuf _ _ | .wrbuf _ _ | .rdbuf _ | .rdreg _ | .wrreg _ _ | .reset => .command
  | .reserved00 | .reserved10 _ | .reserved20 _ | .reserved40 _ | .reserved80 _ => .command
  | .w0Continuation _ | .w0Text _ | .w0Binary _ | .w0Unknown3 _ | .w0Unknown4 _ | .w0Unknown5 _ | .w0Unknown6 _ | .w0Unknown7 _ => .w0
  | .w0Close _ | .w0Ping _ | .w0Pong _ | .w0UnknownB _ | .w0UnknownC _ | .w0UnknownD _ | .w0UnknownE _ | .w0UnknownF _ => .w0
  | .w0RsvSet40 _ | .w0RsvSet20 _ | .w0RsvSet10 _ => .w0
  | .w1Inline00 _ _ | .w1Inline40 _ _ | .w1Inline60 _ _ | .w1Inline70 _ _ | .w1Inline78 _ _ | .w1Inline7C _ _ => .w1
  | .w1Ext16 _ _ | .w1Ext64 _ _ => .w1

/-- A well-formed term: the free bits of a row's octet lie in that row. Every other operand is well formed at every value of its
type, because the encoding admits every value (an illegal operand raises an error, R108). -/
def WellFormed : Instr → Bool
  | .reserved10 cc => matches8 cc 0xF0 0x10
  | .reserved20 cc => matches8 cc 0xE0 0x20
  | .reserved40 cc => matches8 cc 0xC0 0x40
  | .reserved80 cc => matches8 cc 0x80 0x80
  | .w0RsvSet40 b => matches8 b 0x40 0x40
  | .w0RsvSet20 b => matches8 b 0x60 0x20
  | .w0RsvSet10 b => matches8 b 0x70 0x10
  | .w1Inline00 _ c => matches7 c 0x40 0x00
  | .w1Inline40 _ c => matches7 c 0x60 0x40
  | .w1Inline60 _ c => matches7 c 0x70 0x60
  | .w1Inline70 _ c => matches7 c 0x78 0x70
  | .w1Inline78 _ c => matches7 c 0x7C 0x78
  | .w1Inline7C _ c => matches7 c 0x7E 0x7C
  | .dechdr | .enchdr _ _ | .declen | .enclen _ _ _ | .ldkey | .setkey _ _ _ _ | .stkey | .applymask _ _ => true
  | .ldbuf _ _ | .stbuf _ _ | .wrbuf _ _ | .rdbuf _ | .rdreg _ | .wrreg _ _ | .reset | .reserved00 => true
  | .w0Continuation _ | .w0Text _ | .w0Binary _ | .w0Unknown3 _ | .w0Unknown4 _ | .w0Unknown5 _ | .w0Unknown6 _ | .w0Unknown7 _ => true
  | .w0Close _ | .w0Ping _ | .w0Pong _ | .w0UnknownB _ | .w0UnknownC _ | .w0UnknownD _ | .w0UnknownE _ | .w0UnknownF _ => true
  | .w1Ext16 _ _ | .w1Ext64 _ _ => true

end Sys2Proof
end

