-- ==== Sys2Proof/Decode.lean ====
section
/-! DEFINITION. The byte-order helpers (spec/00_scope.md R9), the decoder of the three spaces of the opcode table (R91 to R97,
R101 to R103, R107), the encoder, and the host's table word. -/

namespace Sys2Proof

/-- `{b, low}` (R7): the flag in bit 7, seven bits below it. -/
def flagOctet (b : Bool) (low : BitVec 7) : Octet := (if b then 0x80 else 0x00) ||| low.setWidth 8

/-- `{high, b}` (R7): seven bits, the flag in bit 0. -/
def octetFlag (high : BitVec 7) (b : Bool) : Octet := (high.setWidth 8 <<< 1) ||| (if b then 0x01 else 0x00)

/-- `be16(b0, b1) = b0 * 256 + b1` (R9): the first octet is the more significant. -/
def be16 (b0 b1 : Octet) : BitVec 16 := BitVec.ofNat 16 (b0.toNat * 256 + b1.toNat)

/-- `be64(b0, ..., b7)`, the sum over `k` of `b_k * 256^(7-k)` (R9): the first octet is the most significant. -/
def be64 (b0 b1 b2 b3 b4 b5 b6 b7 : Octet) : U64 :=
  BitVec.ofNat 64 (b0.toNat * 256 ^ 7 + b1.toNat * 256 ^ 6 + b2.toNat * 256 ^ 5 + b3.toNat * 256 ^ 4 +
    b4.toNat * 256 ^ 3 + b5.toNat * 256 ^ 2 + b6.toNat * 256 + b7.toNat)

/-- `bytes16(v) = [v[15:8], v[7:0]]` (R9). -/
def bytes16 (v : BitVec 16) : List Octet := [v.extractLsb' 8 8, v.extractLsb' 0 8]

/-- `bytes64(v) = [v[63:56], ..., v[7:0]]` (R9). -/
def bytes64 (v : U64) : List Octet :=
  [v.extractLsb' 56 8, v.extractLsb' 48 8, v.extractLsb' 40 8, v.extractLsb' 32 8,
   v.extractLsb' 24 8, v.extractLsb' 16 8, v.extractLsb' 8 8, v.extractLsb' 0 8]

/-- The octet at index `k` of a list of octets that is known to be long enough. -/
def octetAt (l : List Octet) (k : Nat) : Octet := l.getD k 0

/-- The 16-bit big-endian number that starts at index `k`. -/
def u16At (l : List Octet) (k : Nat) : BitVec 16 := be16 (octetAt l k) (octetAt l (k + 1))

/-- The 64-bit big-endian number that starts at index `k` (R102). -/
def u64At (l : List Octet) (k : Nat) : U64 :=
  be64 (octetAt l k) (octetAt l (k + 1)) (octetAt l (k + 2)) (octetAt l (k + 3))
    (octetAt l (k + 4)) (octetAt l (k + 5)) (octetAt l (k + 6)) (octetAt l (k + 7))

/-- A leading octet (format W0, R91): FIN in bit 7, the reserved bits 6 to 4 zero, the opcode in bits 3 to 0. -/
def w0Octet (fin : Bool) (opcode : BitVec 4) : Octet := flagOctet fin (opcode.setWidth 7)

/-- A length octet (format W1, R93): the mask flag in bit 7, the length code in bits 6 to 0. -/
def w1Octet (m : Bool) (c : BitVec 7) : Octet := flagOctet m c

/-- Why octets are not a word of a space: the decoder refuses by one of these names. -/
inductive DecodeError where
  /-- No octet at all. -/
  | empty
  /-- The command code or length octet `first` takes another number of octets than were given (R100, U18). -/
  | wrongLength (first : Octet)
deriving DecidableEq, Repr

/-- How many operand octets follow a command code (R101); a reserved code takes none (R107). -/
def operandOctets (cc : Octet) : Nat :=
  match cc.toNat with
  | 0x02 => 1
  | 0x04 => 9
  | 0x06 => 4
  | 0x08 => 16
  | 0x09 => 16
  | 0x0A => 16
  | 0x0B => 9
  | 0x0C => 8
  | 0x0D => 1
  | 0x0E => 2
  | _ => 0

/-- The row of a reserved command code (R107): 0x00 or 0x10 to 0xFF. -/
def decodeReserved (cc : Octet) : Instr :=
  if matches8 cc 0x80 0x80 then .reserved80 cc
  else if matches8 cc 0xC0 0x40 then .reserved40 cc
  else if matches8 cc 0xE0 0x20 then .reserved20 cc
  else if matches8 cc 0xF0 0x10 then .reserved10 cc
  else .reserved00

/-- The command with code `cc` and exactly the operand octets `p` that it takes (R101 to R103). -/
def decodeOperands (cc : Octet) (p : List Octet) : Instr :=
  match cc.toNat with
  | 0x01 => .dechdr
  | 0x02 => .enchdr ((octetAt p 0).extractLsb' 0 7) ((octetAt p 0).getLsbD 7)
  | 0x03 => .declen
  | 0x04 => .enclen ((octetAt p 0).extractLsb' 1 7) ((octetAt p 0).getLsbD 0) (u64At p 1)
  | 0x05 => .ldkey
  | 0x06 => .setkey (octetAt p 0) (octetAt p 1) (octetAt p 2) (octetAt p 3)
  | 0x07 => .stkey
  | 0x08 => .applymask (u64At p 0) (u64At p 8)
  | 0x09 => .ldbuf (u64At p 0) (u64At p 8)
  | 0x0A => .stbuf (u64At p 0) (u64At p 8)
  | 0x0B => .wrbuf (u64At p 0) (octetAt p 8)
  | 0x0C => .rdbuf (u64At p 0)
  | 0x0D => .rdreg (octetAt p 0)
  | 0x0E => .wrreg (octetAt p 0) (octetAt p 1)
  | 0x0F => .reset
  | _ => decodeReserved cc

/-- Decode one transfer of the command port: the command code octet and exactly its operand octets (R100). A transfer with
missing or surplus octets is not a command (U18) and is refused by name. -/
def decodeCommand : List Octet → Except DecodeError Instr
  | [] => .error .empty
  | cc :: p => if p.length = operandOctets cc then .ok (decodeOperands cc p) else .error (.wrongLength cc)

/-- The row of a leading octet (R91, R92, R105): the reserved bits are looked at first. -/
def decodeLeading (b : Octet) : Instr :=
  if matches8 b 0x40 0x40 then .w0RsvSet40 b
  else if matches8 b 0x60 0x20 then .w0RsvSet20 b
  else if matches8 b 0x70 0x10 then .w0RsvSet10 b
  else
    let fin := b.getLsbD 7
    match (b.extractLsb' 0 4).toNat with
    | 0x0 => .w0Continuation fin
    | 0x1 => .w0Text fin
    | 0x2 => .w0Binary fin
    | 0x3 => .w0Unknown3 fin
    | 0x4 => .w0Unknown4 fin
    | 0x5 => .w0Unknown5 fin
    | 0x6 => .w0Unknown6 fin
    | 0x7 => .w0Unknown7 fin
    | 0x8 => .w0Close fin
    | 0x9 => .w0Ping fin
    | 0xA => .w0Pong fin
    | 0xB => .w0UnknownB fin
    | 0xC => .w0UnknownC fin
    | 0xD => .w0UnknownD fin
    | 0xE => .w0UnknownE fin
    | _ => .w0UnknownF fin

/-- Decode one leading octet (space W0): one octet, no more. -/
def decodeW0 : List Octet → Except DecodeError Instr
  | [] => .error .empty
  | [b] => .ok (decodeLeading b)
  | b :: _ :: _ => .error (.wrongLength b)

/-- How many extension octets follow a length octet with code `c` (R94 to R96). -/
def extensionOctets (c : BitVec 7) : Nat :=
  match c.toNat with
  | 126 => 2
  | 127 => 8
  | _ => 0

/-- The row of a length field with mask flag `m`, length code `c` and exactly the extension octets `e` it takes (R94 to R96). -/
def decodeLengthRow (m : Bool) (c : BitVec 7) (e : List Octet) : Instr :=
  if c = 127 then .w1Ext64 m (u64At e 0)
  else if c = 126 then .w1Ext16 m (u16At e 0)
  else if matches7 c 0x7E 0x7C then .w1Inline7C m c
  else if matches7 c 0x7C 0x78 then .w1Inline78 m c
  else if matches7 c 0x78 0x70 then .w1Inline70 m c
  else if matches7 c 0x70 0x60 then .w1Inline60 m c
  else if matches7 c 0x60 0x40 then .w1Inline40 m c
  else .w1Inline00 m c

/-- Decode one whole length field (space W1): the length octet and exactly the extension octets it announces. -/
def decodeW1 : List Octet → Except DecodeError Instr
  | [] => .error .empty
  | b :: e =>
    if e.length = extensionOctets (b.extractLsb' 0 7) then .ok (decodeLengthRow (b.getLsbD 7) (b.extractLsb' 0 7) e)
    else .error (.wrongLength b)

/-- The decoder of a space of the opcode table, total on any octets. -/
def decodeIn : Space → List Octet → Except DecodeError Instr
  | .command => decodeCommand
  | .w0 => decodeW0
  | .w1 => decodeW1

/-- The octets of an instruction in its own space (R91, R93, R95, R96, R101 to R103), first octet first. -/
def encode : Instr → List Octet
  | .dechdr => [0x01]
  | .enchdr opc fin => [0x02, flagOctet fin opc]
  | .declen => [0x03]
  | .enclen rsv m len => 0x04 :: octetFlag rsv m :: bytes64 len
  | .ldkey => [0x05]
  | .setkey k0 k1 k2 k3 => [0x06, k0, k1, k2, k3]
  | .stkey => [0x07]
  | .applymask a n => 0x08 :: (bytes64 a ++ bytes64 n)
  | .ldbuf a n => 0x09 :: (bytes64 a ++ bytes64 n)
  | .stbuf a n => 0x0A :: (bytes64 a ++ bytes64 n)
  | .wrbuf a v => 0x0B :: (bytes64 a ++ [v])
  | .rdbuf a => 0x0C :: bytes64 a
  | .rdreg r => [0x0D, r]
  | .wrreg r v => [0x0E, r, v]
  | .reset => [0x0F]
  | .reserved00 => [0x00]
  | .reserved10 cc => [cc]
  | .reserved20 cc => [cc]
  | .reserved40 cc => [cc]
  | .reserved80 cc => [cc]
  | .w0Continuation fin => [w0Octet fin 0x0]
  | .w0Text fin => [w0Octet fin 0x1]
  | .w0Binary fin => [w0Octet fin 0x2]
  | .w0Unknown3 fin => [w0Octet fin 0x3]
  | .w0Unknown4 fin => [w0Octet fin 0x4]
  | .w0Unknown5 fin => [w0Octet fin 0x5]
  | .w0Unknown6 fin => [w0Octet fin 0x6]
  | .w0Unknown7 fin => [w0Octet fin 0x7]
  | .w0Close fin => [w0Octet fin 0x8]
  | .w0Ping fin => [w0Octet fin 0x9]
  | .w0Pong fin => [w0Octet fin 0xA]
  | .w0UnknownB fin => [w0Octet fin 0xB]
  | .w0UnknownC fin => [w0Octet fin 0xC]
  | .w0UnknownD fin => [w0Octet fin 0xD]
  | .w0UnknownE fin => [w0Octet fin 0xE]
  | .w0UnknownF fin => [w0Octet fin 0xF]
  | .w0RsvSet40 b => [b]
  | .w0RsvSet20 b => [b]
  | .w0RsvSet10 b => [b]
  | .w1Inline00 m c => [w1Octet m c]
  | .w1Inline40 m c => [w1Octet m c]
  | .w1Inline60 m c => [w1Octet m c]
  | .w1Inline70 m c => [w1Octet m c]
  | .w1Inline78 m c => [w1Octet m c]
  | .w1Inline7C m c => [w1Octet m c]
  | .w1Ext16 m len => w1Octet m 126 :: bytes16 len
  | .w1Ext64 m len => w1Octet m 127 :: bytes64 len

/-- A row of spec/opcode_table.json: its mnemonic, its space, the mask and match of its first octet, and its length in octets. -/
structure Row where
  mnemonic : String
  space : Space
  mask : Octet
  want : Octet
  octets : Nat
deriving DecidableEq, Repr

/-- The row of an instruction, as spec/opcode_table.json gives it. -/
def rowOf : Instr → Row
  | .dechdr => ⟨"DECHDR", .command, 0xFF, 0x01, 1⟩
  | .enchdr _ _ => ⟨"ENCHDR", .command, 0xFF, 0x02, 2⟩
  | .declen => ⟨"DECLEN", .command, 0xFF, 0x03, 1⟩
  | .enclen _ _ _ => ⟨"ENCLEN", .command, 0xFF, 0x04, 10⟩
  | .ldkey => ⟨"LDKEY", .command, 0xFF, 0x05, 1⟩
  | .setkey _ _ _ _ => ⟨"SETKEY", .command, 0xFF, 0x06, 5⟩
  | .stkey => ⟨"STKEY", .command, 0xFF, 0x07, 1⟩
  | .applymask _ _ => ⟨"APPLYMASK", .command, 0xFF, 0x08, 17⟩
  | .ldbuf _ _ => ⟨"LDBUF", .command, 0xFF, 0x09, 17⟩
  | .stbuf _ _ => ⟨"STBUF", .command, 0xFF, 0x0A, 17⟩
  | .wrbuf _ _ => ⟨"WRBUF", .command, 0xFF, 0x0B, 10⟩
  | .rdbuf _ => ⟨"RDBUF", .command, 0xFF, 0x0C, 9⟩
  | .rdreg _ => ⟨"RDREG", .command, 0xFF, 0x0D, 2⟩
  | .wrreg _ _ => ⟨"WRREG", .command, 0xFF, 0x0E, 3⟩
  | .reset => ⟨"RESET", .command, 0xFF, 0x0F, 1⟩
  | .reserved00 => ⟨"RESERVED_00", .command, 0xFF, 0x00, 1⟩
  | .reserved10 _ => ⟨"RESERVED_10", .command, 0xF0, 0x10, 1⟩
  | .reserved20 _ => ⟨"RESERVED_20", .command, 0xE0, 0x20, 1⟩
  | .reserved40 _ => ⟨"RESERVED_40", .command, 0xC0, 0x40, 1⟩
  | .reserved80 _ => ⟨"RESERVED_80", .command, 0x80, 0x80, 1⟩
  | .w0Continuation _ => ⟨"W0.CONTINUATION", .w0, 0x7F, 0x00, 1⟩
  | .w0Text _ => ⟨"W0.TEXT", .w0, 0x7F, 0x01, 1⟩
  | .w0Binary _ => ⟨"W0.BINARY", .w0, 0x7F, 0x02, 1⟩
  | .w0Unknown3 _ => ⟨"W0.UNKNOWN_3", .w0, 0x7F, 0x03, 1⟩
  | .w0Unknown4 _ => ⟨"W0.UNKNOWN_4", .w0, 0x7F, 0x04, 1⟩
  | .w0Unknown5 _ => ⟨"W0.UNKNOWN_5", .w0, 0x7F, 0x05, 1⟩
  | .w0Unknown6 _ => ⟨"W0.UNKNOWN_6", .w0, 0x7F, 0x06, 1⟩
  | .w0Unknown7 _ => ⟨"W0.UNKNOWN_7", .w0, 0x7F, 0x07, 1⟩
  | .w0Close _ => ⟨"W0.CLOSE", .w0, 0x7F, 0x08, 1⟩
  | .w0Ping _ => ⟨"W0.PING", .w0, 0x7F, 0x09, 1⟩
  | .w0Pong _ => ⟨"W0.PONG", .w0, 0x7F, 0x0A, 1⟩
  | .w0UnknownB _ => ⟨"W0.UNKNOWN_B", .w0, 0x7F, 0x0B, 1⟩
  | .w0UnknownC _ => ⟨"W0.UNKNOWN_C", .w0, 0x7F, 0x0C, 1⟩
  | .w0UnknownD _ => ⟨"W0.UNKNOWN_D", .w0, 0x7F, 0x0D, 1⟩
  | .w0UnknownE _ => ⟨"W0.UNKNOWN_E", .w0, 0x7F, 0x0E, 1⟩
  | .w0UnknownF _ => ⟨"W0.UNKNOWN_F", .w0, 0x7F, 0x0F, 1⟩
  | .w0RsvSet40 _ => ⟨"W0.RSV_SET_40", .w0, 0x40, 0x40, 1⟩
  | .w0RsvSet20 _ => ⟨"W0.RSV_SET_20", .w0, 0x60, 0x20, 1⟩
  | .w0RsvSet10 _ => ⟨"W0.RSV_SET_10", .w0, 0x70, 0x10, 1⟩
  | .w1Inline00 _ _ => ⟨"W1.INLINE_00", .w1, 0x40, 0x00, 1⟩
  | .w1Inline40 _ _ => ⟨"W1.INLINE_40", .w1, 0x60, 0x40, 1⟩
  | .w1Inline60 _ _ => ⟨"W1.INLINE_60", .w1, 0x70, 0x60, 1⟩
  | .w1Inline70 _ _ => ⟨"W1.INLINE_70", .w1, 0x78, 0x70, 1⟩
  | .w1Inline78 _ _ => ⟨"W1.INLINE_78", .w1, 0x7C, 0x78, 1⟩
  | .w1Inline7C _ _ => ⟨"W1.INLINE_7C", .w1, 0x7E, 0x7C, 1⟩
  | .w1Ext16 _ _ => ⟨"W1.EXT16", .w1, 0x7F, 0x7E, 3⟩
  | .w1Ext64 _ _ => ⟨"W1.EXT64", .w1, 0x7F, 0x7F, 9⟩

/-- The command rows and reserved-command rows of spec/opcode_table.json, in its order. -/
def commandRows : List Row :=
  [⟨"DECHDR", .command, 0xFF, 0x01, 1⟩,
   ⟨"ENCHDR", .command, 0xFF, 0x02, 2⟩,
   ⟨"DECLEN", .command, 0xFF, 0x03, 1⟩,
   ⟨"ENCLEN", .command, 0xFF, 0x04, 10⟩,
   ⟨"LDKEY", .command, 0xFF, 0x05, 1⟩,
   ⟨"SETKEY", .command, 0xFF, 0x06, 5⟩,
   ⟨"STKEY", .command, 0xFF, 0x07, 1⟩,
   ⟨"APPLYMASK", .command, 0xFF, 0x08, 17⟩,
   ⟨"LDBUF", .command, 0xFF, 0x09, 17⟩,
   ⟨"STBUF", .command, 0xFF, 0x0A, 17⟩,
   ⟨"WRBUF", .command, 0xFF, 0x0B, 10⟩,
   ⟨"RDBUF", .command, 0xFF, 0x0C, 9⟩,
   ⟨"RDREG", .command, 0xFF, 0x0D, 2⟩,
   ⟨"WRREG", .command, 0xFF, 0x0E, 3⟩,
   ⟨"RESET", .command, 0xFF, 0x0F, 1⟩,
   ⟨"RESERVED_00", .command, 0xFF, 0x00, 1⟩,
   ⟨"RESERVED_10", .command, 0xF0, 0x10, 1⟩,
   ⟨"RESERVED_20", .command, 0xE0, 0x20, 1⟩,
   ⟨"RESERVED_40", .command, 0xC0, 0x40, 1⟩,
   ⟨"RESERVED_80", .command, 0x80, 0x80, 1⟩]

/-- The leading-octet rows (space wire.W0), in the table's order. -/
def w0Rows : List Row :=
  [⟨"W0.CONTINUATION", .w0, 0x7F, 0x00, 1⟩,
   ⟨"W0.TEXT", .w0, 0x7F, 0x01, 1⟩,
   ⟨"W0.BINARY", .w0, 0x7F, 0x02, 1⟩,
   ⟨"W0.UNKNOWN_3", .w0, 0x7F, 0x03, 1⟩,
   ⟨"W0.UNKNOWN_4", .w0, 0x7F, 0x04, 1⟩,
   ⟨"W0.UNKNOWN_5", .w0, 0x7F, 0x05, 1⟩,
   ⟨"W0.UNKNOWN_6", .w0, 0x7F, 0x06, 1⟩,
   ⟨"W0.UNKNOWN_7", .w0, 0x7F, 0x07, 1⟩,
   ⟨"W0.CLOSE", .w0, 0x7F, 0x08, 1⟩,
   ⟨"W0.PING", .w0, 0x7F, 0x09, 1⟩,
   ⟨"W0.PONG", .w0, 0x7F, 0x0A, 1⟩,
   ⟨"W0.UNKNOWN_B", .w0, 0x7F, 0x0B, 1⟩,
   ⟨"W0.UNKNOWN_C", .w0, 0x7F, 0x0C, 1⟩,
   ⟨"W0.UNKNOWN_D", .w0, 0x7F, 0x0D, 1⟩,
   ⟨"W0.UNKNOWN_E", .w0, 0x7F, 0x0E, 1⟩,
   ⟨"W0.UNKNOWN_F", .w0, 0x7F, 0x0F, 1⟩,
   ⟨"W0.RSV_SET_40", .w0, 0x40, 0x40, 1⟩,
   ⟨"W0.RSV_SET_20", .w0, 0x60, 0x20, 1⟩,
   ⟨"W0.RSV_SET_10", .w0, 0x70, 0x10, 1⟩]

/-- The length-octet rows (space wire.W1), in the table's order. -/
def w1Rows : List Row :=
  [⟨"W1.INLINE_00", .w1, 0x40, 0x00, 1⟩,
   ⟨"W1.INLINE_40", .w1, 0x60, 0x40, 1⟩,
   ⟨"W1.INLINE_60", .w1, 0x70, 0x60, 1⟩,
   ⟨"W1.INLINE_70", .w1, 0x78, 0x70, 1⟩,
   ⟨"W1.INLINE_78", .w1, 0x7C, 0x78, 1⟩,
   ⟨"W1.INLINE_7C", .w1, 0x7E, 0x7C, 1⟩,
   ⟨"W1.EXT16", .w1, 0x7F, 0x7E, 3⟩,
   ⟨"W1.EXT64", .w1, 0x7F, 0x7F, 9⟩]

/-- All 47 rows of spec/opcode_table.json. -/
def tableRows : List Row := commandRows ++ w0Rows ++ w1Rows

/-- The `n` low octets of `w`, the least significant first: bit 0 of the table's numbering is bit 0 of the first octet. -/
def octetsLow : Nat → Nat → List Octet
  | 0, _ => []
  | n + 1, w => BitVec.ofNat 8 w :: octetsLow n (w / 256)

/-- The transfer that the table's word spells: `nbits / 8` octets, and zero octets up to the length the command code takes. -/
def tableTransfer (nbits w : Nat) : List Octet :=
  match octetsLow (nbits / 8) w with
  | [] => []
  | cc :: p => cc :: (p ++ List.replicate (operandOctets cc - p.length) 0)

/-- The instruction the command decoder reads from a table word (the host's question). A word is read as a command: the table's
wire rows share their words with command rows, and a word alone does not say which space it belongs to (log entry 8). -/
def decodeTableWord (nbits w : Nat) : Option Instr := (decodeCommand (tableTransfer nbits w)).toOption

end Sys2Proof
end

