-- ==== Sys2Proof/Machine/State.lean ====
section
/-! DEFINITION. The state of the block, of its two streams and of its command port, as plain data (spec/10_state.md R21 to R40),
the ways a step can stop, and the state after power-on reset. -/

namespace Sys2Proof.Machine

/-- The masking key registers KEY[0] to KEY[3] (R26). -/
structure Key where
  k0 : Octet
  k1 : Octet
  k2 : Octet
  k3 : Octet
deriving DecidableEq, Repr

/-- The nine errors of the block (R271). -/
inductive ErrorCode where
  | rxShort
  | txShort
  | reservedBitsSet
  | maskBitRequired
  | opcodeRange
  | bufferRange
  | keyNotValid
  | reservedCommand
  | reservedField
deriving DecidableEq, Repr

/-- A response on the command port (R104): `OK`, `OK(v)` with a 64-bit value, or `ERR(c)` with the 4-bit code of STATUS.ERR. -/
inductive Response where
  | ok
  | okValue (v : U64)
  | err (c : BitVec 4)
deriving DecidableEq, Repr

/-- BUF as the cells that something has written, by rising address (log entry 2). -/
abbrev Memory := List Host.Cell

/-- The state: what R21 lists, the parameters of a run (R35), the command port, the responses, and the model's own counter. -/
structure State where
  /-- OPC, the opcode of the last decoded leading octet (R22). -/
  opc : BitVec 7
  /-- FIN, the final flag of the last decoded leading octet (R23). -/
  fin : Bool
  /-- MASKED, the mask flag of the last decoded length octet (R24). -/
  masked : Bool
  /-- LEN, the last decoded payload length (R25). -/
  len : U64
  /-- KEY[0..3] (R26). -/
  key : Key
  /-- CTRL: bit 0 RXREQ, bits 7 to 1 reserved (R28). -/
  ctrl : Octet
  /-- STATUS: bits 3 to 0 ERR, bit 4 HDRV, bit 5 LENV, bit 6 KEYV, bit 7 reserved (R29, R30). -/
  status : Octet
  /-- BUF, the payload buffer: its written cells (R27). -/
  buf : Memory
  /-- BUFCAP, the size of the buffer, a parameter of the run (R6, R35): no operation changes it. -/
  bufcap : Nat
  /-- RXS, the octets the RX stream has still to deliver, the next one first (R33). -/
  rxs : List Octet
  /-- TXS, everything sent so far, the oldest first (R34). -/
  txs : List Octet
  /-- TXCAP, how many further octets the TX stream accepts (R34). -/
  txcap : Capacity
  /-- The transfers the host has still to deliver on the command port, the next one first (R100; log entry 4). -/
  port : List (List Octet)
  /-- The responses given so far, the oldest first (R104; log entry 5). -/
  responses : List Response
  /-- The model's own field: how many `LDBUF`s have failed on a short stream; selects the free values of U6 (log entry 3). -/
  draws : Nat
deriving DecidableEq, Repr

/-- The machine has no fault: every error of the spec latches its code, is answered with `ERR(c)` and leaves the block waiting
for the next command (R278), so it is a next state. The type has no constructor: nothing raises a fault. -/
inductive Fault where
deriving DecidableEq, Repr

/-- Why the model gives no meaning. -/
inductive Refusal where
  /-- Raised by `exec` for an instruction with no meaning yet; no arm uses it. Safe. -/
  | notModelled (mnemonic : String)
  /-- Raised by `step` for a transfer on the command port that is no command: the spec gives it no step (R100, U18). Safe. -/
  | malformedTransfer (e : DecodeError)
  /-- Raised by the host sequence `recvFrame` alone, for a Close frame whose payload is shorter than 2 octets: the spec gives it
  no meaning (R239, U4). Safe. -/
  | closeTooShort
deriving DecidableEq, Repr

/-- The machine right after power-on reset (R40, R300, R302): every register at its stated value, nothing written in BUF, the
streams as the environment provides them, no command delivered and no response given. -/
def State.reset : State where
  opc := 0
  fin := false
  masked := false
  len := 0
  key := ⟨0, 0, 0, 0⟩
  ctrl := 0x01
  status := 0x00
  buf := []
  bufcap := Config.bufcap
  rxs := Config.rxInit
  txs := []
  txcap := Config.txcapInit
  port := []
  responses := []
  draws := 0

end Sys2Proof.Machine
end

