-- ==== Sys2Proof/Machine/Flags.lean ====
section
/-! DEFINITION. The fields of CTRL and STATUS, the error codes, and the register views (spec/10_state.md R28 to R31, R37;
spec/60_exceptions.md R271). -/

namespace Sys2Proof.Machine

/-- The code of an error in STATUS.ERR and in an `ERR(c)` response (R271). -/
def errorCode : ErrorCode → BitVec 4
  | .rxShort => 1
  | .txShort => 2
  | .reservedBitsSet => 3
  | .maskBitRequired => 4
  | .opcodeRange => 5
  | .bufferRange => 6
  | .keyNotValid => 7
  | .reservedCommand => 8
  | .reservedField => 9

/-- The binary spelling of a response (R104): a status octet, and the value of `OK(v)` big-endian. -/
def responseOctets : Response → List Octet
  | .ok => [0x00]
  | .okValue v => 0x00 :: bytes64 v
  | .err c => [c.setWidth 8]

/-- CTRL.RXREQ, bit 0: the reading side requires masking (R28). -/
def rxreq (ctrl : Octet) : Bool := ctrl.getLsbD 0

/-- STATUS.ERR, bits 3 to 0 (R29). -/
def errOf (status : Octet) : BitVec 4 := status.extractLsb' 0 4

/-- STATUS.HDRV, bit 4 (R29, R30). -/
def hdrvOf (status : Octet) : Bool := status.getLsbD 4

/-- STATUS.LENV, bit 5 (R29, R30). -/
def lenvOf (status : Octet) : Bool := status.getLsbD 5

/-- STATUS.KEYV, bit 6 (R29, R30). -/
def keyvOf (status : Octet) : Bool := status.getLsbD 6

/-- STATUS with ERR replaced and every other bit kept. -/
def withErr (status : Octet) (c : BitVec 4) : Octet := (status &&& 0xF0) ||| c.setWidth 8

/-- STATUS with HDRV set. -/
def withHdrv (status : Octet) : Octet := status ||| 0x10

/-- STATUS with LENV set. -/
def withLenv (status : Octet) : Octet := status ||| 0x20

/-- STATUS with KEYV set. -/
def withKeyv (status : Octet) : Octet := status ||| 0x40

/-- The HDR view, `{FIN, OPC[6:0]}` (R31, R37). -/
def hdrView (fin : Bool) (opc : BitVec 7) : Octet := flagOctet fin opc

/-- The LENF view, `{0000000, MASKED}` (R31). -/
def lenfView (masked : Bool) : Octet := octetFlag 0 masked

/-- The KEY view, `{KEY[0], KEY[1], KEY[2], KEY[3]}` (R31): KEY[0] is bits 31 to 24. -/
def keyView (k : Key) : BitVec 32 :=
  BitVec.ofNat 32 (k.k0.toNat * 256 ^ 3 + k.k1.toNat * 256 ^ 2 + k.k2.toNat * 256 + k.k3.toNat)

end Sys2Proof.Machine
end

