-- ==== Sys2Proof/Machine/Operands.lean ====
section
/-! DEFINITION. The pure functions of the three components (spec/00_scope.md R11; R130, R131, R150 to R152, R170), the header
length of a frame (R98), and the registers as `RDREG` numbers them (R31). -/

namespace Sys2Proof.Machine

/-- `unpack_header(b)` (R130): `none` when a reserved bit (mask 0x70) is set, else the 7-bit opcode `b & 0x7F` and FIN. -/
def unpackHeader (b : Octet) : Option (BitVec 7 × Bool) :=
  if b &&& 0x70 ≠ 0 then none else some (b.extractLsb' 0 7, b.getLsbD 7)

/-- `pack_header(opc, fin)` (R131): FIN in bit 7, the reserved bits 0, `opc[3:0]` in the low bits; defined for `opc` at most 15. -/
def packHeader (opc : BitVec 7) (fin : Bool) : Octet := flagOctet fin ((opc.extractLsb' 0 4).setWidth 7)

/-- `unpack_len7(b)` (R150): the mask flag and the 7-bit length code. -/
def unpackLen7 (b : Octet) : Bool × BitVec 7 := (b.getLsbD 7, b.extractLsb' 0 7)

/-- The three length encodings (R12, R151). -/
inductive Tier where
  | inline7
  | ext16
  | ext64
deriving DecidableEq, Repr

/-- `tier_of(len)` (R151): the smallest tier that holds the length. -/
def tierOf (len : U64) : Tier :=
  if len.toNat ≤ 125 then .inline7 else if len.toNat ≤ 65535 then .ext16 else .ext64

/-- `pack_length(len, m)` (R152): 1, 3 or 9 octets, the mask flag in the high bit of the first. -/
def packLength (len : U64) (m : Bool) : List Octet :=
  match tierOf len with
  | .inline7 => [w1Octet m (len.setWidth 7)]
  | .ext16 => w1Octet m 126 :: bytes16 (len.setWidth 16)
  | .ext64 => w1Octet m 127 :: bytes64 len

/-- `k[i mod 4]` (R170). -/
def keyOctet (k : Key) (i : Nat) : Octet :=
  match i % 4 with
  | 0 => k.k0
  | 1 => k.k1
  | 2 => k.k2
  | _ => k.k3

/-- The octets of `p` XORed with the key, the first of them with `k[i mod 4]`. -/
def maskFrom (k : Key) : Nat → List Octet → List Octet
  | _, [] => []
  | i, b :: p => (b ^^^ keyOctet k i) :: maskFrom k (i + 1) p

/-- `mask_octets(p, k)` (R170): octet `i` of the result is `p[i] ^ k[i mod 4]`, with `i` from 0. -/
def maskOctets (p : List Octet) (k : Key) : List Octet := maskFrom k 0 p

/-- The key rotated by `r` places (R175 (d)): place `j` holds `k[(j + r) mod 4]`. -/
def rotKey (k : Key) (r : Nat) : Key :=
  ⟨keyOctet k r, keyOctet k (r + 1), keyOctet k (r + 2), keyOctet k (r + 3)⟩

/-- The four key octets in index order (R63). -/
def keyOctets (k : Key) : List Octet := [k.k0, k.k1, k.k2, k.k3]

/-- The key held by the first four octets of a list (R63, R171). -/
def keyOf (p : List Octet) : Key := ⟨octetAt p 0, octetAt p 1, octetAt p 2, octetAt p 3⟩

/-- The result of reading a whole length field without the RXREQ test: the length, the mask flag and the octets left over
(`decode_octets` of R155); `none` when the list is too short. -/
def decodeOctets : List Octet → Option (U64 × Bool × List Octet)
  | [] => none
  | b :: rest =>
    if rest.length < extensionOctets (unpackLen7 b).2 then none
    else if (unpackLen7 b).2 = 126 then some ((u16At rest 0).setWidth 64, (unpackLen7 b).1, rest.drop 2)
    else if (unpackLen7 b).2 = 127 then some (u64At rest 0, (unpackLen7 b).1, rest.drop 8)
    else some ((unpackLen7 b).2.setWidth 64, (unpackLen7 b).1, rest)

/-- How many octets a frame's header has, from its length octet alone (R98): 2, the extension, and 4 for a key. -/
def headerLength (b : Octet) : Nat :=
  2 + extensionOctets (unpackLen7 b).2 + (if (unpackLen7 b).1 then 4 else 0)

/-- The contents of register number `r`, zero-extended to 64 bits, and `none` for a reserved number (R31, R210). -/
def readRegister (s : State) (r : Octet) : Option U64 :=
  match r.toNat with
  | 0 => some (s.ctrl.setWidth 64)
  | 1 => some (s.status.setWidth 64)
  | 2 => some ((hdrView s.fin s.opc).setWidth 64)
  | 3 => some ((lenfView s.masked).setWidth 64)
  | 4 => some s.len
  | 5 => some ((keyView s.key).setWidth 64)
  | _ => none

end Sys2Proof.Machine
end

