-- ==== Sys2Proof/Machine/Ops.lean ====
section
/-! DEFINITION. The named operations over the buffer, the streams and the registers (spec/20_memory.md R67 to R69;
spec/10_state.md R22 to R30), raising an error and the way out of the error state (spec/60_exceptions.md R277 to R279), and the
frame that every operation but `RDREG` and `RESET` shares. -/

namespace Sys2Proof.Machine

/-- The written octet at address `a`, `none` where nothing has been written: what an unlisted address reads as. -/
def Memory.lookup : Memory → Nat → Option Octet
  | [], _ => none
  | c :: m, a => if c.1 = a then some c.2 else Memory.lookup m a

/-- Write one octet, keeping the cells in rising order of address. -/
def Memory.write : Memory → Nat → Octet → Memory
  | [], a, v => [(a, v)]
  | c :: m, a, v =>
    if a < c.1 then (a, v) :: c :: m
    else if a = c.1 then (a, v) :: m
    else c :: Memory.write m a v

/-- Write a list of octets at ascending addresses from `a` (R64: the first goes to the lowest address). -/
def Memory.writeList : Memory → Nat → List Octet → Memory
  | m, _, [] => m
  | m, a, v :: p => Memory.writeList (Memory.write m a v) (a + 1) p

/-- The canonical form: strictly rising addresses. An unlisted address holds no written value, so no cell repeats it. -/
abbrev Memory.wf (m : Memory) : Prop := m.Pairwise fun c d => c.1 < d.1

/-- `MemRead(a, 1)`, also `BUF[a]` (R67): the written octet, or the free value the address has held since power-on (U7). -/
def bufRead (s : State) (a : Nat) : Octet := (Memory.lookup s.buf a).getD (Config.powerOnOctet a)

/-- `[BUF[a], BUF[a+1], ..., BUF[a+n-1]]` (R191). -/
def bufSlice (s : State) : Nat → Nat → List Octet
  | _, 0 => []
  | a, n + 1 => bufRead s a :: bufSlice s (a + 1) n

@[simp] theorem bufSlice_length (s : State) (a n : Nat) : (bufSlice s a n).length = n := by
  induction n generalizing a with
  | zero => rfl
  | succ n ih => simp [bufSlice, ih]

/-- `BUF[a + i] <- p[i]` for every octet of `p` (R67, R190). -/
def setBuf (s : State) (a : Nat) (p : List Octet) : State := { s with buf := Memory.writeList s.buf a p }

/-- The range check of every buffer operation, `a + n <= BUFCAP`, with the sum in unbounded naturals (R67). -/
abbrev inRange (s : State) (a n : Nat) : Prop := a + n ≤ s.bufcap

/-- The free octets that the range of a failed `LDBUF` holds (U6): `n` of them from address `a`, for the failure numbered `k`. -/
def freeOctets (k : Nat) : Nat → Nat → List Octet
  | _, 0 => []
  | a, n + 1 => Config.shortReadOctet k a :: freeOctets k (a + 1) n

/-- The range of a failed `LDBUF` becomes unspecified: one fresh free value per octet (R278 (e), U6). -/
def spoilRange (s : State) (a n : Nat) : State :=
  { s with buf := Memory.writeList s.buf a (freeOctets s.draws a n), draws := s.draws + 1 }

/-- OPC, FIN and HDRV after a decoded leading octet (R22, R23, R30). -/
def setHeader (s : State) (opc : BitVec 7) (fin : Bool) : State :=
  { s with opc := opc, fin := fin, status := withHdrv s.status }

/-- LEN, MASKED and LENV after a decoded length field (R24, R25, R30). -/
def setLength (s : State) (len : U64) (m : Bool) : State :=
  { s with len := len, masked := m, status := withLenv s.status }

/-- KEY and KEYV after a key is loaded: the four octets are always written together (R26, R30). -/
def setKey (s : State) (k : Key) : State := { s with key := k, status := withKeyv s.status }

/-- CTRL (R28, R211). -/
def setCtrl (s : State) (v : Octet) : State := { s with ctrl := v }

/-- `RxRead(n)` (R68): the next `n` octets, removed from RXS; or `none` with RXS emptied when fewer remain. -/
def rxRead (s : State) (n : Nat) : Option (List Octet) × State :=
  if n ≤ s.rxs.length then (some (s.rxs.take n), { s with rxs := s.rxs.drop n })
  else (none, { s with rxs := [] })

/-- How many of `n` octets the TX stream takes (R69). -/
def accepted (cap : Capacity) (n : Nat) : Nat :=
  match cap with
  | .octets c => min c n
  | .unlimited => n

/-- TXCAP after `n` octets have been taken: infinity stays infinity (R69). -/
def capacityAfter (cap : Capacity) (n : Nat) : Capacity :=
  match cap with
  | .octets c => .octets (c - n)
  | .unlimited => .unlimited

/-- A write of `n` octets does not fall short: `n <= TXCAP` (R69). -/
abbrev hasRoom (cap : Capacity) (n : Nat) : Prop := accepted cap n = n

/-- `TxWrite(l)` (R69): the octets the stream takes are appended to TXS and leave TXCAP; the flag says that all were taken. -/
def txWrite (s : State) (l : List Octet) : Bool × State :=
  let k := accepted s.txcap l.length
  (k == l.length, { s with txs := s.txs ++ l.take k, txcap := capacityAfter s.txcap k })

/-- Answer a command (R104): one response, after all earlier ones. -/
def respond (s : State) (r : Response) : State := { s with responses := s.responses ++ [r] }

/-- Latch an error code: STATUS.ERR is written only while it is 0, the first error wins (R278 (b)). -/
def latch (s : State) (e : ErrorCode) : State :=
  if errOf s.status = 0 then { s with status := withErr s.status (errorCode e) } else s

/-- `raise E` (R278): latch the code if none is latched, answer `ERR(c)`, change nothing else. This is the block's exception
entry: there is no handler, no vector and no saved state. -/
def raise (s : State) (e : ErrorCode) : State := respond (latch s e) (.err (errorCode e))

/-- An operation refused because an error is latched (R279): no effect, answered with the latched code. -/
def refuse (s : State) : State := respond s (.err (errOf s.status))

/-- The registers' reset values (R40, R212): the block's only return from the error state. BUF and the streams are not touched
(R302). -/
def resetRegisters (s : State) : State :=
  { s with opc := 0, fin := false, masked := false, len := 0, key := ⟨0, 0, 0, 0⟩, ctrl := 0x01, status := 0x00 }

/-- How the pseudocode of an operation ends: `respond OK`, `respond OK(v)` or `raise E` (R10). -/
inductive Ending where
  | ok
  | value (v : U64)
  | error (e : ErrorCode)
deriving DecidableEq, Repr

/-- The last line of every sending operation: one `TxWrite` of all the octets it emits (R70), then `OK`, or
`TransportError(TxShort)` when the write falls short (R272). -/
def send (s : State) (l : List Octet) : State × Ending :=
  match txWrite s l with
  | (true, t) => (t, .ok)
  | (false, t) => (t, .error .txShort)

/-- Carry out the ending of an operation. -/
def conclude : State × Ending → State
  | (s, .ok) => respond s .ok
  | (s, .value v) => respond s (.okValue v)
  | (s, .error e) => raise s e

/-- Run the body of an operation, or refuse it while an error is latched (R277 (1), R279). Every operation but `RDREG` and
`RESET` runs so. Whatever happens, the block answers and waits for the next command: a next state. -/
def operate (s : State) (body : State → State × Ending) : Host.Outcome State Fault Refusal :=
  .next (if errOf s.status = 0 then conclude (body s) else refuse s)

/-- A field of a frame stands at the front of the RX stream (the meaning of a wire row begins so; log entry 8). -/
def arrive (s : State) (l : List Octet) : State := { s with rxs := l ++ s.rxs }

end Sys2Proof.Machine
end

