-- ==== Sys2Proof/Machine/Buffer.lean ====
section
/-! DEFINITION. Buffer transfer: LDBUF, STBUF, WRBUF and RDBUF (spec/43_buffer_transfer.md). -/

namespace Sys2Proof.Machine

/-- The pseudocode of `LDBUF a, n` (R190): the range is tested before anything is read; on a short stream the range becomes
unspecified (U6). -/
def ldbufBody (a n : U64) (s : State) : State × Ending :=
  if inRange s a.toNat n.toNat then
    match rxRead s n.toNat with
    | (none, t) => (spoilRange t a.toNat n.toNat, .error .rxShort)
    | (some p, t) => (setBuf t a.toNat p, .ok)
  else (s, .error .bufferRange)

/-- The pseudocode of `STBUF a, n` (R191): one write, lowest address first. -/
def stbufBody (a n : U64) (s : State) : State × Ending :=
  if inRange s a.toNat n.toNat then send s (bufSlice s a.toNat n.toNat) else (s, .error .bufferRange)

/-- The pseudocode of `WRBUF a, v` (R192), with `a` as the number it is (R65). -/
def wrbufBody (a : Nat) (v : Octet) (s : State) : State × Ending :=
  if inRange s a 1 then (setBuf s a [v], .ok) else (s, .error .bufferRange)

/-- The pseudocode of `RDBUF a` (R193). -/
def rdbufBody (a : U64) (s : State) : State × Ending :=
  if inRange s a.toNat 1 then (s, .value ((bufRead s a.toNat).setWidth 64)) else (s, .error .bufferRange)

/-- `LDBUF a, n` (R190). -/
def execLdbuf (a n : U64) (s : State) : Host.Outcome State Fault Refusal := operate s (ldbufBody a n)

/-- `STBUF a, n` (R191). -/
def execStbuf (a n : U64) (s : State) : Host.Outcome State Fault Refusal := operate s (stbufBody a n)

/-- `WRBUF a, v` (R192). -/
def execWrbuf (a : U64) (v : Octet) (s : State) : Host.Outcome State Fault Refusal := operate s (wrbufBody a.toNat v)

/-- `RDBUF a` (R193). -/
def execRdbuf (a : U64) (s : State) : Host.Outcome State Fault Refusal := operate s (rdbufBody a)

end Sys2Proof.Machine
end

