-- ==== Sys2Proof/Machine/Header.lean ====
section
/-! DEFINITION. The frame header codec: DECHDR and ENCHDR (spec/40_header_codec.md). -/

namespace Sys2Proof.Machine

/-- The pseudocode of `DECHDR` (R132): the octet is consumed before the reserved bits are tested. -/
def dechdrBody (s : State) : State × Ending :=
  match rxRead s 1 with
  | (none, t) => (t, .error .rxShort)
  | (some p, t) =>
    match unpackHeader (octetAt p 0) with
    | none => (t, .error .reservedBitsSet)
    | some (opc, fin) => (setHeader t opc fin, .ok)

/-- The pseudocode of `ENCHDR opc, fin` (R133): the operand is tested before any output. -/
def enchdrBody (opc : BitVec 7) (fin : Bool) (s : State) : State × Ending :=
  if 15 < opc.toNat then (s, .error .opcodeRange) else send s [packHeader opc fin]

/-- `DECHDR` (R132). -/
def execDechdr (s : State) : Host.Outcome State Fault Refusal := operate s dechdrBody

/-- `ENCHDR opc, fin` (R133). -/
def execEnchdr (opc : BitVec 7) (fin : Bool) (s : State) : Host.Outcome State Fault Refusal :=
  operate s (enchdrBody opc fin)

end Sys2Proof.Machine
end

