-- ==== Sys2Proof/Machine/Length.lean ====
section
/-! DEFINITION. The payload length transport: DECLEN and ENCLEN (spec/41_payload_length.md). -/

namespace Sys2Proof.Machine

/-- The end of `DECLEN` (R153): read the `x` extension octets, if any, and write the length they spell. -/
def readExtension (s : State) (m : Bool) (x : Nat) (value : List Octet → U64) : State × Ending :=
  match rxRead s x with
  | (none, t) => (t, .error .rxShort)
  | (some e, t) => (setLength t (value e) m, .ok)

/-- `DECLEN` once the length octet is taken (R153): the mask flag `m` is tested before any extension octet is read, then the
length code `c` says how the length goes on. -/
def decodeLength (s : State) (m : Bool) (c : BitVec 7) : State × Ending :=
  if m = false ∧ rxreq s.ctrl = true then (s, .error .maskBitRequired)
  else if c = 126 then readExtension s m 2 fun e => (u16At e 0).setWidth 64
  else if c = 127 then readExtension s m 8 fun e => u64At e 0
  else (setLength s (c.setWidth 64) m, .ok)

/-- The pseudocode of `DECLEN` (R153). -/
def declenBody (s : State) : State × Ending :=
  match rxRead s 1 with
  | (none, t) => (t, .error .rxShort)
  | (some p, t) => decodeLength t (unpackLen7 (octetAt p 0)).1 (unpackLen7 (octetAt p 0)).2

/-- The pseudocode of `ENCLEN m, len` (R154) with the operand octet's reserved bits `rsv = f[7:1]`. -/
def enclenBody (rsv : BitVec 7) (m : Bool) (len : U64) (s : State) : State × Ending :=
  if rsv ≠ 0 then (s, .error .reservedField) else send s (packLength len m)

/-- `DECLEN` (R153). -/
def execDeclen (s : State) : Host.Outcome State Fault Refusal := operate s declenBody

/-- `ENCLEN m, len` (R154). -/
def execEnclen (rsv : BitVec 7) (m : Bool) (len : U64) (s : State) : Host.Outcome State Fault Refusal :=
  operate s (enclenBody rsv m len)

end Sys2Proof.Machine
end

