-- ==== Sys2Proof/Machine/Masking.lean ====
section
/-! DEFINITION. The masking transform: LDKEY, SETKEY, STKEY and APPLYMASK (spec/42_masking.md). -/

namespace Sys2Proof.Machine

/-- The pseudocode of `LDKEY` (R171): the first octet read is KEY[0]. -/
def ldkeyBody (s : State) : State × Ending :=
  match rxRead s 4 with
  | (none, t) => (t, .error .rxShort)
  | (some p, t) => (setKey t (keyOf p), .ok)

/-- The pseudocode of `SETKEY k0, k1, k2, k3` (R172). -/
def setkeyBody (k : Key) (s : State) : State × Ending := (setKey s k, .ok)

/-- The pseudocode of `STKEY` (R173). -/
def stkeyBody (s : State) : State × Ending :=
  if keyvOf s.status = false then (s, .error .keyNotValid) else send s (keyOctets s.key)

/-- The pseudocode of `APPLYMASK a, n` (R174): the valid bit is tested before the range, and the key index counts from `a`. -/
def applymaskBody (a n : U64) (s : State) : State × Ending :=
  if keyvOf s.status = false then (s, .error .keyNotValid)
  else if inRange s a.toNat n.toNat then
    (setBuf s a.toNat (maskOctets (bufSlice s a.toNat n.toNat) s.key), .ok)
  else (s, .error .bufferRange)

/-- `LDKEY` (R171). -/
def execLdkey (s : State) : Host.Outcome State Fault Refusal := operate s ldkeyBody

/-- `SETKEY k0, k1, k2, k3` (R172). -/
def execSetkey (k0 k1 k2 k3 : Octet) (s : State) : Host.Outcome State Fault Refusal :=
  operate s (setkeyBody ⟨k0, k1, k2, k3⟩)

/-- `STKEY` (R173). -/
def execStkey (s : State) : Host.Outcome State Fault Refusal := operate s stkeyBody

/-- `APPLYMASK a, n` (R174). -/
def execApplymask (a n : U64) (s : State) : Host.Outcome State Fault Refusal := operate s (applymaskBody a n)

end Sys2Proof.Machine
end

