-- ==== Sys2Proof/Machine/ReservedCommands.lean ====
section
/-! DEFINITION. The reserved command codes (spec/30_encoding.md R107): each spells no operation and raises
InvalidArgument(ReservedCommand), after the latched error is looked at (R277). -/

namespace Sys2Proof.Machine

/-- What a reserved command code does (R107, R275). -/
def reservedBody (s : State) : State × Ending := (s, .error .reservedCommand)

/-- The command code 0x00 (R107). -/
def execReserved00 (s : State) : Host.Outcome State Fault Refusal := operate s reservedBody

/-- A command code from 0x10 to 0x1F (R107): which one does not matter. -/
def execReserved10 (_cc : Octet) (s : State) : Host.Outcome State Fault Refusal := operate s reservedBody

/-- A command code from 0x20 to 0x3F (R107): which one does not matter. -/
def execReserved20 (_cc : Octet) (s : State) : Host.Outcome State Fault Refusal := operate s reservedBody

/-- A command code from 0x40 to 0x7F (R107): which one does not matter. -/
def execReserved40 (_cc : Octet) (s : State) : Host.Outcome State Fault Refusal := operate s reservedBody

/-- A command code from 0x80 to 0xFF (R107): which one does not matter. -/
def execReserved80 (_cc : Octet) (s : State) : Host.Outcome State Fault Refusal := operate s reservedBody

end Sys2Proof.Machine
end

