-- ==== Sys2Proof/Machine/System.lean ====
section
/-! DEFINITION. System operations: RDREG, WRREG and RESET (spec/44_system.md). -/

namespace Sys2Proof.Machine

/-- The pseudocode of `RDREG r` (R210). -/
def rdregBody (r : Octet) (s : State) : State × Ending :=
  match readRegister s r with
  | some v => (s, .value v)
  | none => (s, .error .reservedField)

/-- The pseudocode of `WRREG r, v` (R211): only CTRL is writable, and its reserved bits only with 0. -/
def wrregBody (r v : Octet) (s : State) : State × Ending :=
  if r ≠ 0 then (s, .error .reservedField)
  else if v.extractLsb' 1 7 ≠ 0 then (s, .error .reservedField)
  else (setCtrl s v, .ok)

/-- The pseudocode of `RESET` (R212). -/
def resetBody (s : State) : State × Ending := (resetRegisters s, .ok)

/-- `RDREG r` (R210): runs in the error state too (R279); a bad register number then answers `ERR(9)` and leaves the latch. -/
def execRdreg (r : Octet) (s : State) : Host.Outcome State Fault Refusal := .next (conclude (rdregBody r s))

/-- `WRREG r, v` (R211). -/
def execWrreg (r v : Octet) (s : State) : Host.Outcome State Fault Refusal := operate s (wrregBody r v)

/-- `RESET` (R212): always succeeds, in the error state too, and is the only operation that clears STATUS.ERR (R279). -/
def execReset (s : State) : Host.Outcome State Fault Refusal := .next (conclude (resetBody s))

end Sys2Proof.Machine
end

