-- ==== Sys2Proof/Machine/Wire.lean ====
section
/-! DEFINITION. The wire rows of the opcode table: leading octets (W0, spec/30_encoding.md R91, R92, R105, R106) and length fields
(W1, R93 to R97). A wire row is no command. Its meaning here (log entry 8): the field stands at the front of the RX stream and
the operation that reads its format, `DECHDR` (R132) or `DECLEN` (R153), runs. What the host's receive sequence makes of the
opcode afterwards (R237 to R241) is in Machine/HostSeq.lean. -/

namespace Sys2Proof.Machine

/-- A leading octet at the front of the RX stream, and `DECHDR`. -/
def receiveLeading (b : Octet) (s : State) : Host.Outcome State Fault Refusal := operate (arrive s [b]) dechdrBody

/-- A length field at the front of the RX stream, and `DECLEN`. -/
def receiveLength (l : List Octet) (s : State) : Host.Outcome State Fault Refusal := operate (arrive s l) declenBody

/-- W0.CONTINUATION (R237): the leading octet with opcode 0x0. -/
def execW0Continuation (fin : Bool) (s : State) : Host.Outcome State Fault Refusal := receiveLeading (w0Octet fin 0x0) s

/-- W0.TEXT (R238): the leading octet with opcode 0x1. -/
def execW0Text (fin : Bool) (s : State) : Host.Outcome State Fault Refusal := receiveLeading (w0Octet fin 0x1) s

/-- W0.BINARY (R238): the leading octet with opcode 0x2. -/
def execW0Binary (fin : Bool) (s : State) : Host.Outcome State Fault Refusal := receiveLeading (w0Octet fin 0x2) s

/-- W0.UNKNOWN_3 (R241): the leading octet with opcode 0x3. -/
def execW0Unknown3 (fin : Bool) (s : State) : Host.Outcome State Fault Refusal := receiveLeading (w0Octet fin 0x3) s

/-- W0.UNKNOWN_4 (R241): the leading octet with opcode 0x4. -/
def execW0Unknown4 (fin : Bool) (s : State) : Host.Outcome State Fault Refusal := receiveLeading (w0Octet fin 0x4) s

/-- W0.UNKNOWN_5 (R241): the leading octet with opcode 0x5. -/
def execW0Unknown5 (fin : Bool) (s : State) : Host.Outcome State Fault Refusal := receiveLeading (w0Octet fin 0x5) s

/-- W0.UNKNOWN_6 (R241): the leading octet with opcode 0x6. -/
def execW0Unknown6 (fin : Bool) (s : State) : Host.Outcome State Fault Refusal := receiveLeading (w0Octet fin 0x6) s

/-- W0.UNKNOWN_7 (R241): the leading octet with opcode 0x7. -/
def execW0Unknown7 (fin : Bool) (s : State) : Host.Outcome State Fault Refusal := receiveLeading (w0Octet fin 0x7) s

/-- W0.CLOSE (R239): the leading octet with opcode 0x8. -/
def execW0Close (fin : Bool) (s : State) : Host.Outcome State Fault Refusal := receiveLeading (w0Octet fin 0x8) s

/-- W0.PING (R240): the leading octet with opcode 0x9. -/
def execW0Ping (fin : Bool) (s : State) : Host.Outcome State Fault Refusal := receiveLeading (w0Octet fin 0x9) s

/-- W0.PONG (R240): the leading octet with opcode 0xA. -/
def execW0Pong (fin : Bool) (s : State) : Host.Outcome State Fault Refusal := receiveLeading (w0Octet fin 0xA) s

/-- W0.UNKNOWN_B (R241): the leading octet with opcode 0xB. -/
def execW0UnknownB (fin : Bool) (s : State) : Host.Outcome State Fault Refusal := receiveLeading (w0Octet fin 0xB) s

/-- W0.UNKNOWN_C (R241): the leading octet with opcode 0xC. -/
def execW0UnknownC (fin : Bool) (s : State) : Host.Outcome State Fault Refusal := receiveLeading (w0Octet fin 0xC) s

/-- W0.UNKNOWN_D (R241): the leading octet with opcode 0xD. -/
def execW0UnknownD (fin : Bool) (s : State) : Host.Outcome State Fault Refusal := receiveLeading (w0Octet fin 0xD) s

/-- W0.UNKNOWN_E (R241): the leading octet with opcode 0xE. -/
def execW0UnknownE (fin : Bool) (s : State) : Host.Outcome State Fault Refusal := receiveLeading (w0Octet fin 0xE) s

/-- W0.UNKNOWN_F (R241): the leading octet with opcode 0xF. -/
def execW0UnknownF (fin : Bool) (s : State) : Host.Outcome State Fault Refusal := receiveLeading (w0Octet fin 0xF) s

/-- W0.RSV_SET_40 (R105): a leading octet with a reserved bit set. -/
def execW0RsvSet40 (b : Octet) (s : State) : Host.Outcome State Fault Refusal := receiveLeading b s

/-- W0.RSV_SET_20 (R105): a leading octet with a reserved bit set. -/
def execW0RsvSet20 (b : Octet) (s : State) : Host.Outcome State Fault Refusal := receiveLeading b s

/-- W0.RSV_SET_10 (R105): a leading octet with a reserved bit set. -/
def execW0RsvSet10 (b : Octet) (s : State) : Host.Outcome State Fault Refusal := receiveLeading b s

/-- W1.INLINE_00 (R94): the length octet with an inline length in 0..63. -/
def execW1Inline00 (m : Bool) (c : BitVec 7) (s : State) : Host.Outcome State Fault Refusal := receiveLength [w1Octet m c] s

/-- W1.INLINE_40 (R94): the length octet with an inline length in 64..95. -/
def execW1Inline40 (m : Bool) (c : BitVec 7) (s : State) : Host.Outcome State Fault Refusal := receiveLength [w1Octet m c] s

/-- W1.INLINE_60 (R94): the length octet with an inline length in 96..111. -/
def execW1Inline60 (m : Bool) (c : BitVec 7) (s : State) : Host.Outcome State Fault Refusal := receiveLength [w1Octet m c] s

/-- W1.INLINE_70 (R94): the length octet with an inline length in 112..119. -/
def execW1Inline70 (m : Bool) (c : BitVec 7) (s : State) : Host.Outcome State Fault Refusal := receiveLength [w1Octet m c] s

/-- W1.INLINE_78 (R94): the length octet with an inline length in 120..123. -/
def execW1Inline78 (m : Bool) (c : BitVec 7) (s : State) : Host.Outcome State Fault Refusal := receiveLength [w1Octet m c] s

/-- W1.INLINE_7C (R94): the length octet with an inline length in 124..125. -/
def execW1Inline7C (m : Bool) (c : BitVec 7) (s : State) : Host.Outcome State Fault Refusal := receiveLength [w1Octet m c] s

/-- W1.EXT16 (R95): length code 126 and a 16-bit length, most significant octet first. -/
def execW1Ext16 (m : Bool) (len : BitVec 16) (s : State) : Host.Outcome State Fault Refusal :=
  receiveLength (w1Octet m 126 :: bytes16 len) s

/-- W1.EXT64 (R96): length code 127 and a 64-bit length, most significant octet first. -/
def execW1Ext64 (m : Bool) (len : U64) (s : State) : Host.Outcome State Fault Refusal :=
  receiveLength (w1Octet m 127 :: bytes64 len) s

end Sys2Proof.Machine
end

