-- ==== Sys2Proof/Machine/Dispatch.lean ====
section
/-! DEFINITION. One arm per constructor of Instr: the direct call of its meaning. -/

namespace Sys2Proof.Machine

def exec (i : Instr) (s : State) : Host.Outcome State Fault Refusal :=
  match i with
  | .dechdr => Sys2Proof.Machine.execDechdr s
  | .enchdr opc fin => Sys2Proof.Machine.execEnchdr opc fin s
  | .declen => Sys2Proof.Machine.execDeclen s
  | .enclen rsv m len => Sys2Proof.Machine.execEnclen rsv m len s
  | .ldkey => Sys2Proof.Machine.execLdkey s
  | .setkey k0 k1 k2 k3 => Sys2Proof.Machine.execSetkey k0 k1 k2 k3 s
  | .stkey => Sys2Proof.Machine.execStkey s
  | .applymask a n => Sys2Proof.Machine.execApplymask a n s
  | .ldbuf a n => Sys2Proof.Machine.execLdbuf a n s
  | .stbuf a n => Sys2Proof.Machine.execStbuf a n s
  | .wrbuf a v => Sys2Proof.Machine.execWrbuf a v s
  | .rdbuf a => Sys2Proof.Machine.execRdbuf a s
  | .rdreg r => Sys2Proof.Machine.execRdreg r s
  | .wrreg r v => Sys2Proof.Machine.execWrreg r v s
  | .reset => Sys2Proof.Machine.execReset s
  | .reserved00 => Sys2Proof.Machine.execReserved00 s
  | .reserved10 cc => Sys2Proof.Machine.execReserved10 cc s
  | .reserved20 cc => Sys2Proof.Machine.execReserved20 cc s
  | .reserved40 cc => Sys2Proof.Machine.execReserved40 cc s
  | .reserved80 cc => Sys2Proof.Machine.execReserved80 cc s
  | .w0Continuation fin => Sys2Proof.Machine.execW0Continuation fin s
  | .w0Text fin => Sys2Proof.Machine.execW0Text fin s
  | .w0Binary fin => Sys2Proof.Machine.execW0Binary fin s
  | .w0Unknown3 fin => Sys2Proof.Machine.execW0Unknown3 fin s
  | .w0Unknown4 fin => Sys2Proof.Machine.execW0Unknown4 fin s
  | .w0Unknown5 fin => Sys2Proof.Machine.execW0Unknown5 fin s
  | .w0Unknown6 fin => Sys2Proof.Machine.execW0Unknown6 fin s
  | .w0Unknown7 fin => Sys2Proof.Machine.execW0Unknown7 fin s
  | .w0Close fin => Sys2Proof.Machine.execW0Close fin s
  | .w0Ping fin => Sys2Proof.Machine.execW0Ping fin s
  | .w0Pong fin => Sys2Proof.Machine.execW0Pong fin s
  | .w0UnknownB fin => Sys2Proof.Machine.execW0UnknownB fin s
  | .w0UnknownC fin => Sys2Proof.Machine.execW0UnknownC fin s
  | .w0UnknownD fin => Sys2Proof.Machine.execW0UnknownD fin s
  | .w0UnknownE fin => Sys2Proof.Machine.execW0UnknownE fin s
  | .w0UnknownF fin => Sys2Proof.Machine.execW0UnknownF fin s
  | .w0RsvSet40 b => Sys2Proof.Machine.execW0RsvSet40 b s
  | .w0RsvSet20 b => Sys2Proof.Machine.execW0RsvSet20 b s
  | .w0RsvSet10 b => Sys2Proof.Machine.execW0RsvSet10 b s
  | .w1Inline00 m c => Sys2Proof.Machine.execW1Inline00 m c s
  | .w1Inline40 m c => Sys2Proof.Machine.execW1Inline40 m c s
  | .w1Inline60 m c => Sys2Proof.Machine.execW1Inline60 m c s
  | .w1Inline70 m c => Sys2Proof.Machine.execW1Inline70 m c s
  | .w1Inline78 m c => Sys2Proof.Machine.execW1Inline78 m c s
  | .w1Inline7C m c => Sys2Proof.Machine.execW1Inline7C m c s
  | .w1Ext16 m len => Sys2Proof.Machine.execW1Ext16 m len s
  | .w1Ext64 m len => Sys2Proof.Machine.execW1Ext64 m len s

end Sys2Proof.Machine
end

