-- ==== Sys2Proof/Machine/Step.lean ====
section
/-! DEFINITION. One step: the host delivers the next transfer of the command port and the block executes it (spec/30_encoding.md
R100; spec/20_memory.md R71). -/

namespace Sys2Proof.Machine

/-- One step. With no transfer pending the block is idle and keeps all its state (R286, R301). Otherwise the next transfer is
taken from the port and decoded: a command is executed whole, a malformed transfer is no command and is refused (U18). -/
def step (s : State) : Host.Outcome State Fault Refusal :=
  match s.port with
  | [] => .next s
  | t :: rest =>
    match decodeCommand t with
    | .ok i => exec i { s with port := rest }
    | .error e => .refused (.malformedTransfer e)

/-- The state with the transfer that a table word spells delivered next on the command port (log entry 4). -/
def State.withFetchWord (s : State) (nbits w : Nat) : State := { s with port := tableTransfer nbits w :: s.port }

end Sys2Proof.Machine
end

