-- ==== Sys2Proof/Machine/HostSeq.lean ====
section
/-! DEFINITION. The frame-level host sequences RECVFRAME and SENDFRAME and the Frame data model (spec/45_frame_sequences.md). They
are rules on the host, not on the block: the host issues operations of the block through `exec`, one after the other, reads each
response, and stops at the first error response. None of this adds behaviour to the block (log entry 10). -/

namespace Sys2Proof.Machine

/-- The payload of a frame (R230): octets, and a length that is a 64-bit number as every length is (R6, R8). -/
abbrev Payload := { octets : List Octet // octets.length < 2 ^ 64 }

/-- A frame (R230): a kind and its payload; `invalid` is the sentinel value that no successful receive produces. -/
inductive Frame where
  | text (payload : Payload)
  | binary (payload : Payload)
  | ping (payload : Payload)
  | pong (payload : Payload)
  | close (reason : BitVec 16)
  | invalid
deriving DecidableEq, Repr

/-- The close reason codes that R232 names. The list is informative: every 16-bit value may be sent and received (U3). -/
def closeReasonName (code : BitVec 16) : Option String :=
  match code.toNat with
  | 1000 => some "Normal"
  | 1001 => some "GoingAway"
  | 1002 => some "ProtocolError"
  | 1003 => some "CannotAccept"
  | 1007 => some "InvalidData"
  | 1008 => some "PolicyViolation"
  | 1009 => some "TooBig"
  | 1010 => some "InsufficientExtensions"
  | 1011 => some "InternalServerError"
  | _ => none

/-- The role a host plays (R12, R246). -/
inductive Role where
  | client
  | server
deriving DecidableEq, Repr

/-- Why a host sequence fails (R233): an `ERR(c)` response of the block, or an error of the host's own. -/
inductive HostError where
  /-- The block answered `ERR(c)`. -/
  | block (c : BitVec 4)
  /-- A Continuation frame was received (R237). -/
  | unsupportedOperation
  /-- `ProtocolError(UnknownOpcode)` (R241). -/
  | unknownOpcode
  /-- `ProtocolError(ControlFrame)`: a control frame that is not final or is longer than 125 (R239, R240). -/
  | controlFrame
  /-- `InvalidArgument(InvalidFrame)` (R245). -/
  | invalidFrame
deriving DecidableEq, Repr

/-- The end of a host sequence: the block's state and what the host has, or a refusal where the spec gives no meaning. -/
abbrev HostOutcome (α : Type) := Host.Outcome (State × Except HostError α) Fault Refusal

/-- What the host reads from the last response: the value of `OK(v)`, 0 for `OK`, or the error of `ERR(c)`. -/
def answer (s : State) : Except HostError U64 :=
  match s.responses.getLast? with
  | some (.err c) => .error (.block c)
  | some (.okValue v) => .ok v
  | some .ok => .ok 0
  | none => .ok 0

/-- The host reads the response of an operation that it has issued (R71). -/
def collect (o : Host.Outcome State Fault Refusal) : HostOutcome U64 :=
  match o with
  | .next t => .next (t, answer t)
  | .fault f => .fault f
  | .refused r => .refused r

/-- The host issues one operation and reads its response (R20, R71). -/
def issue (i : Instr) (s : State) : HostOutcome U64 := collect (exec i s)

/-- The host issues `WRBUF a, v` with the number `a` (R65: for abstract operations the operands are numbers). A number below 2^64
is the command's operand; one at or above it is above every BUFCAP and fails the range check (R67, R192; log entry 10). -/
def issueWrbuf (a : Nat) (v : Octet) (s : State) : HostOutcome U64 := collect (operate s (wrbufBody a v))

/-- Go on with the sequence, unless it has failed or has no meaning. -/
def andThen {α β : Type} (o : HostOutcome α) (k : α → State → HostOutcome β) : HostOutcome β :=
  match o with
  | .next (s, .ok a) => k a s
  | .next (s, .error e) => .next (s, .error e)
  | .fault f => .fault f
  | .refused r => .refused r

/-- The host has a result, or an error of its own. -/
def finish {α : Type} (s : State) (r : Except HostError α) : HostOutcome α := .next (s, r)

/-- An operation that a step of a sequence issues only under a condition. -/
def issueIf (c : Bool) (i : Instr) (s : State) : HostOutcome U64 := if c then issue i s else finish s (.ok 0)

/-- Step 7 of RECVFRAME (R238 to R241): dispatch on the opcode, with the payload in `BUF[p .. p+len-1]`. FIN is not looked at for
Text and Binary (R238). A Close reads its reason code with two `RDBUF`s, most significant octet first (R239). -/
def dispatchFrame (opc : BitVec 7) (fin : Bool) (p len : U64) (s : State) : HostOutcome Frame :=
  let payload : Payload := ⟨bufSlice s p.toNat len.toNat, by rw [bufSlice_length]; exact len.isLt⟩
  let control := fin = true ∧ len.toNat ≤ 125
  match opc.toNat with
  | 0x1 => finish s (.ok (.text payload))
  | 0x2 => finish s (.ok (.binary payload))
  | 0x8 =>
    if control then
      if len.toNat < 2 then .refused .closeTooShort
      else
        andThen (issue (.rdbuf p) s) fun b0 s =>
        andThen (issue (.rdbuf (p + 1)) s) fun b1 s =>
        finish s (.ok (.close (be16 (b0.setWidth 8) (b1.setWidth 8))))
    else finish s (.error .controlFrame)
  | 0x9 => if control then finish s (.ok (.ping payload)) else finish s (.error .controlFrame)
  | 0xA => if control then finish s (.ok (.pong payload)) else finish s (.error .controlFrame)
  | _ => finish s (.error .unknownOpcode)

/-- RECVFRAME (R236, R244) with the buffer base address `p`. The header and the length are read back with `RDREG`; the key is read
and the mask applied only if the mask flag is set; a Continuation fails before any payload octet is read (R237). -/
def recvFrame (p : U64) (s : State) : HostOutcome Frame :=
  andThen (issue .dechdr s) fun _ s =>
  andThen (issue (.rdreg 2) s) fun hdr s =>
  andThen (issue .declen s) fun _ s =>
  andThen (issue (.rdreg 4) s) fun len s =>
  andThen (issue (.rdreg 3) s) fun lenf s =>
  let m := lenf.getLsbD 0
  andThen (issueIf m .ldkey s) fun _ s =>
  if hdr.extractLsb' 0 7 = 0 then finish s (.error .unsupportedOperation)
  else
    andThen (issue (.ldbuf p len) s) fun _ s =>
    andThen (issueIf m (.applymask p len) s) fun _ s =>
    dispatchFrame (hdr.extractLsb' 0 7) (hdr.getLsbD 7) p len s

/-- The opcode and the payload of a frame to send (R245, R248): a Close carries its reason code as two octets, most significant
first; `invalid` has none. -/
def frameContent : Frame → Option (BitVec 7 × List Octet)
  | .text payload => some (0x1, payload.val)
  | .binary payload => some (0x2, payload.val)
  | .ping payload => some (0x9, payload.val)
  | .pong payload => some (0xA, payload.val)
  | .close reason => some (0x8, bytes16 reason)
  | .invalid => none

/-- Step 0 of SENDFRAME: `WRBUF p+i, payload[i]` for every `i`, up to the first error response (R245). -/
def writePayload : Nat → List Octet → State → HostOutcome U64
  | _, [], s => finish s (.ok 0)
  | a, v :: rest, s => andThen (issueWrbuf a v s) fun _ s => writePayload (a + 1) rest s

/-- SENDFRAME (R245 to R249) with the buffer base address `p` and the host's key (used by a client only). The mask flag is fixed
by the role (R246). The operations are issued in order up to the first error response; a payload that does not fit the buffer
from `p` is found by the `WRBUF` of its first octet outside. -/
def sendFrame (f : Frame) (role : Role) (p : U64) (k : Key) (s : State) : HostOutcome U64 :=
  match frameContent f with
  | none => finish s (.error .invalidFrame)
  | some (opc, payload) =>
    let m := role == .client
    let len : U64 := BitVec.ofNat 64 payload.length
    andThen (writePayload p.toNat payload s) fun _ s =>
    andThen (issue (.enchdr opc true) s) fun _ s =>
    andThen (issue (.enclen 0 m len) s) fun _ s =>
    andThen (issueIf m (.setkey k.k0 k.k1 k.k2 k.k3) s) fun _ s =>
    andThen (issueIf m .stkey s) fun _ s =>
    andThen (issueIf m (.applymask p len) s) fun _ s =>
    issue (.stbuf p len) s

/-- The octets of a frame on the wire (R90, R99): leading octet, length field, the key iff the frame is masked, and the payload,
masked iff there is a key. -/
def frameOctets (opc : BitVec 7) (fin : Bool) (key : Option Key) (payload : List Octet) : List Octet :=
  packHeader opc fin :: (packLength (BitVec.ofNat 64 payload.length) key.isSome ++
    (match key with
     | some k => keyOctets k ++ maskOctets payload k
     | none => payload))

end Sys2Proof.Machine
end

