-- ==== Sys2Proof/Safety.lean ====
section
/-! DEFINITION. What a legal state is and what the error state is, in the terms the statements use. -/

namespace Sys2Proof.Machine

/-- An error is latched (R279). -/
abbrev errorState (s : State) : Prop := errOf s.status ≠ 0

/-- No error is latched: every command executes (R279). -/
abbrev noError (s : State) : Prop := errOf s.status = 0

/-- What every state of the block that a run reaches satisfies. -/
structure Inv (s : State) : Prop where
  /-- BUF is in its canonical form (log entry 2). -/
  bufSorted : Memory.wf s.buf
  /-- Every written cell lies in the buffer (R67). -/
  bufBounded : ∀ c ∈ s.buf, c.1 < s.bufcap
  /-- BUFCAP is at most 2^64 (R6). -/
  bufcapBound : s.bufcap ≤ 2 ^ 64
  /-- The upper three bits of OPC are 0 (R22). -/
  opcLow : s.opc.toNat ≤ 15
  /-- The reserved bits of CTRL are 0 (R28). -/
  ctrlReserved : s.ctrl.extractLsb' 1 7 = 0
  /-- The reserved bit of STATUS is 0 (R29). -/
  statusReserved : s.status.getLsbD 7 = false
  /-- STATUS.ERR holds no reserved code (R271). -/
  errLegal : (errOf s.status).toNat ≤ 9
  /-- While HDRV is 0, OPC and FIN hold their reset values (R30, R210). -/
  headerValid : hdrvOf s.status = false → s.opc = 0 ∧ s.fin = false
  /-- While LENV is 0, LEN and MASKED hold their reset values (R30, R210). -/
  lengthValid : lenvOf s.status = false → s.len = 0 ∧ s.masked = false
  /-- While KEYV is 0, KEY holds its reset value (R30, R210). -/
  keyValid : keyvOf s.status = false → s.key = ⟨0, 0, 0, 0⟩

/-- The state after an error with code `c` is raised in `s` while none is latched (R278): the code latched, one `ERR(c)`
response, nothing else. -/
def failedWith (s : State) (c : BitVec 4) : State :=
  { s with status := withErr s.status c, responses := s.responses ++ [.err c] }

/-- The instruction decodes a leading octet: `DECHDR`, or a leading octet on the wire. -/
abbrev decodesHeader (i : Instr) : Prop := i = .dechdr ∨ i.space = .w0

/-- The instruction decodes a length field: `DECLEN`, or a length field on the wire. -/
abbrev decodesLength (i : Instr) : Prop := i = .declen ∨ i.space = .w1

/-- The instruction loads a key (R26): `LDKEY` or `SETKEY`. -/
def loadsKey : Instr → Bool
  | .ldkey => true
  | .setkey _ _ _ _ => true
  | _ => false

/-- The instruction may read the RX stream (R60 (c)); a wire row stands for a field on it. -/
def readsStream : Instr → Bool
  | .dechdr => true
  | .declen => true
  | .ldkey => true
  | .ldbuf _ _ => true
  | i => i.space != .command

/-- The instruction may write the TX stream (R60 (d)). -/
def writesStream : Instr → Bool
  | .enchdr _ _ => true
  | .enclen _ _ _ => true
  | .stkey => true
  | .stbuf _ _ => true
  | _ => false

/-- The instruction may store to buffer address `x` (R27): the range of `APPLYMASK` and `LDBUF`, the address of `WRBUF`. -/
def storesTo (i : Instr) (x : Nat) : Prop :=
  match i with
  | .applymask a n => a.toNat ≤ x ∧ x < a.toNat + n.toNat
  | .ldbuf a n => a.toNat ≤ x ∧ x < a.toNat + n.toNat
  | .wrbuf a _ => x = a.toNat
  | _ => False

end Sys2Proof.Machine
end

