-- ==== Sys2Proof/Certificates/Slice0/Obligations.lean ====
section
/-! DEFINITION. The statements for the provers, from the numbered rules of spec/. A statement about a next state that gives the
whole state as a record update is also the frame of its instruction: every field not named is unchanged. -/

open Sys2Proof Sys2Proof.Machine

/-! ### Encoding and delivery -/

/-- Every well-formed instruction is decoded from its own encoding, in its own space -/
def Obligations.DecodeEncodeRoundTrip : Prop :=
  ∀ i : Instr, WellFormed i = true → decodeIn i.space (encode i) = .ok i

/-- Octets that decode are the encoding of a well-formed instruction of that space -/
def Obligations.EncodeDecodeRoundTrip : Prop :=
  ∀ (sp : Space) (t : List Octet) (i : Instr), decodeIn sp t = .ok i → encode i = t ∧ i.space = sp ∧ WellFormed i = true

/-- In each space every first octet matches exactly one row of the opcode table -/
def Obligations.EveryOctetHasOneRow : Prop :=
  ∀ (sp : Space) (b : Octet),
    (tableRows.filter fun r => r.space == sp && b &&& r.mask == r.want).length = 1

/-- A few words written out from the spec's encodings decode to what they stand for -/
def Obligations.SpecWordsDecode : Prop :=
  decodeCommand [0x02, 0x81] = .ok (.enchdr 0x1 true) ∧
  decodeCommand [0x04, 0x01, 0, 0, 0, 0, 0, 0, 0x01, 0x2C] = .ok (.enclen 0 true 300) ∧
  decodeCommand [0x06, 0x37, 0xFA, 0x21, 0x3D] = .ok (.setkey 0x37 0xFA 0x21 0x3D) ∧
  decodeCommand [0x08, 0, 0, 0, 0, 0, 0, 0, 0x03, 0, 0, 0, 0, 0, 0, 0, 0x06] = .ok (.applymask 3 6) ∧
  decodeCommand [0x0B, 0, 0, 0, 0, 0, 0, 0, 0x0F, 0xAA] = .ok (.wrbuf 15 0xAA) ∧
  decodeCommand [0x0E, 0x00, 0x01] = .ok (.wrreg 0 1) ∧
  decodeCommand [0x10] = .ok (.reserved10 0x10) ∧
  decodeW0 [0x8A] = .ok (.w0Pong true) ∧
  decodeW0 [0xC1] = .ok (.w0RsvSet40 0xC1) ∧
  decodeW1 [0x7E, 0x01, 0x2C] = .ok (.w1Ext16 false 300)

/-- A step executes the command delivered next, and idles when there is none (the model's choice: log entry 4) -/
def Obligations.StepRunsDeliveredCommand : Prop :=
  (∀ (s : State) (i : Instr) (rest : List (List Octet)), WellFormed i = true → i.space = .command →
    s.port = encode i :: rest → step s = exec i { s with port := rest }) ∧
  (∀ (s : State) (t : List Octet) (i : Instr) (rest : List (List Octet)), decodeCommand t = .ok i →
    s.port = t :: rest → step s = exec i { s with port := rest }) ∧
  (∀ s : State, s.port = [] → step s = .next s)

/-- A transfer that is empty, too short or too long is refused by name (the model's choice: log entry 6) -/
def Obligations.MalformedTransferIsRefused : Prop :=
  ∀ (s : State) (t : List Octet) (rest : List (List Octet)), s.port = t :: rest →
    (t = [] → step s = .refused (.malformedTransfer .empty)) ∧
    (∀ (cc : Octet) (p : List Octet), t = cc :: p → p.length ≠ operandOctets cc →
      step s = .refused (.malformedTransfer (.wrongLength cc))) ∧
    (∀ (cc : Octet) (p : List Octet), t = cc :: p → p.length = operandOctets cc → ∃ i, decodeCommand t = .ok i)

/-! ### The pure functions -/

/-- pack_header and unpack_header are inverse on the 32 legal pairs and octets -/
def Obligations.HeaderCodecIsBijective : Prop :=
  (∀ (opc : BitVec 7) (fin : Bool), opc.toNat ≤ 15 → unpackHeader (packHeader opc fin) = some (opc, fin)) ∧
  (∀ b : Octet, b &&& 0x70 = 0 →
    ∃ (opc : BitVec 7) (fin : Bool), unpackHeader b = some (opc, fin) ∧ opc.toNat ≤ 15 ∧ packHeader opc fin = b) ∧
  (∀ b : Octet, b &&& 0x70 ≠ 0 → unpackHeader b = none)

/-- decode_octets reads back every packed length and consumes it exactly -/
def Obligations.LengthRoundTrip : Prop :=
  ∀ (len : U64) (m : Bool) (rest : List Octet), decodeOctets (packLength len m ++ rest) = some (len, m, rest)

/-- pack_length takes 1, 3 or 9 octets by value range, and no encoding is shorter -/
def Obligations.PackLengthIsShortest : Prop :=
  ∀ (len : U64) (m : Bool),
    ((len.toNat ≤ 125 → (packLength len m).length = 1) ∧
     (126 ≤ len.toNat → len.toNat ≤ 65535 → (packLength len m).length = 3) ∧
     (65536 ≤ len.toNat → (packLength len m).length = 9)) ∧
    (∀ l : List Octet, decodeOctets l = some (len, m, []) → (packLength len m).length ≤ l.length)

/-- pack_length: {m, len} up to 125, {m, 126} and two octets up to 65535, {m, 127} and eight octets above, most significant first -/
def Obligations.PackLengthOctets : Prop :=
  ∀ (len : U64) (m : Bool),
    (len.toNat ≤ 125 → (packLength len m).map BitVec.toNat = [(if m then 0x80 else 0) + len.toNat]) ∧
    (125 < len.toNat → len.toNat ≤ 65535 →
      (packLength len m).map BitVec.toNat = [(if m then 0x80 else 0) + 126, len.toNat / 256, len.toNat % 256]) ∧
    (65535 < len.toNat → (packLength len m).map BitVec.toNat =
      [(if m then 0x80 else 0) + 127, len.toNat / 256 ^ 7, len.toNat / 256 ^ 6 % 256, len.toNat / 256 ^ 5 % 256,
       len.toNat / 256 ^ 4 % 256, len.toNat / 256 ^ 3 % 256, len.toNat / 256 ^ 2 % 256, len.toNat / 256 % 256,
       len.toNat % 256])

/-- mask_octets XORs octet i with k[i mod 4], and nothing else -/
def Obligations.MaskOctetsElementwise : Prop :=
  ∀ (p : List Octet) (k : Key), (maskOctets p k).length = p.length ∧
    ∀ (i : Nat) (h : i < p.length),
      (maskOctets p k)[i]? = some (p[i] ^^^ ([k.k0, k.k1, k.k2, k.k3][i % 4]'(Nat.mod_lt i (by decide))))

/-- Masking twice with one key gives the octets back -/
def Obligations.MaskInvolution : Prop :=
  ∀ (p : List Octet) (k : Key), maskOctets (maskOctets p k) k = p

/-- Masking in pieces: the second piece uses the key rotated by the first piece's length -/
def Obligations.MaskSplitting : Prop :=
  ∀ (p1 p2 : List Octet) (k : Key),
    maskOctets (p1 ++ p2) k = maskOctets p1 k ++ maskOctets p2 (rotKey k (p1.length % 4)) ∧
    (p1.length % 4 = 0 → maskOctets (p1 ++ p2) k = maskOctets p1 k ++ maskOctets p2 k)

/-! ### Header codec -/

/-- DECHDR: RxShort on an empty stream, ReservedBitsSet on a reserved bit, else OPC, FIN and HDRV are written; the octet is consumed -/
def Obligations.DechdrDecodesOrFails : Prop :=
  ∀ s : State, noError s →
    (s.rxs = [] → exec .dechdr s = .next (failedWith s 1)) ∧
    (∀ (b : Octet) (rest : List Octet), s.rxs = b :: rest → b &&& 0x70 ≠ 0 →
      exec .dechdr s = .next (failedWith { s with rxs := rest } 3)) ∧
    (∀ (b : Octet) (rest : List Octet), s.rxs = b :: rest → b &&& 0x70 = 0 →
      exec .dechdr s = .next { s with opc := BitVec.ofNat 7 (b &&& 0x7F).toNat, fin := (b &&& 0x80 != 0),
                                      status := withHdrv s.status, rxs := rest, responses := s.responses ++ [.ok] })

/-- After a successful DECHDR of octet b, RDREG HDR answers b, and OPC is at most 15 -/
def Obligations.HdrReadsBackTheOctet : Prop :=
  ∀ (s : State) (b : Octet) (rest : List Octet), noError s → s.rxs = b :: rest → b &&& 0x70 = 0 →
    ∃ t u, exec .dechdr s = .next t ∧ exec (.rdreg 2) t = .next u ∧ t.opc.extractLsb' 4 3 = 0 ∧
      u.responses = s.responses ++ [.ok, .okValue (BitVec.ofNat 64 b.toNat)]

/-- ENCHDR: OpcodeRange before any output, TxShort when TXCAP is 0, else the octet fin * 0x80 + opc is sent; no register changes -/
def Obligations.EnchdrSendsOrFails : Prop :=
  ∀ (s : State) (opc : BitVec 7) (fin : Bool), noError s →
    (15 < opc.toNat → exec (.enchdr opc fin) s = .next (failedWith s 5)) ∧
    (opc.toNat ≤ 15 → s.txcap = .octets 0 → exec (.enchdr opc fin) s = .next (failedWith s 2)) ∧
    (opc.toNat ≤ 15 → hasRoom s.txcap 1 →
      packHeader opc fin = BitVec.ofNat 8 ((if fin then 0x80 else 0) + opc.toNat) ∧
      encode (.enchdr opc fin) = [0x02, packHeader opc fin] ∧
      exec (.enchdr opc fin) s = .next { s with txs := s.txs ++ [packHeader opc fin], txcap := capacityAfter s.txcap 1,
                                                responses := s.responses ++ [.ok] })

/-! ### Payload length transport -/

/-- DECLEN reads each tier: inline, 16-bit and 64-bit big-endian, and writes LEN, MASKED and LENV -/
def Obligations.DeclenDecodes : Prop :=
  ∀ (s : State) (b : Octet), noError s → (b.getLsbD 7 = true ∨ rxreq s.ctrl = false) →
    (∀ rest : List Octet, s.rxs = b :: rest → (b &&& 0x7F).toNat ≤ 125 →
      exec .declen s = .next { s with len := BitVec.ofNat 64 (b &&& 0x7F).toNat, masked := b.getLsbD 7,
                                      status := withLenv s.status, rxs := rest, responses := s.responses ++ [.ok] }) ∧
    (∀ (e0 e1 : Octet) (rest : List Octet), s.rxs = b :: e0 :: e1 :: rest → b &&& 0x7F = 126 →
      exec .declen s = .next { s with len := BitVec.ofNat 64 (e0.toNat * 256 + e1.toNat), masked := b.getLsbD 7,
                                      status := withLenv s.status, rxs := rest, responses := s.responses ++ [.ok] }) ∧
    (∀ (e0 e1 e2 e3 e4 e5 e6 e7 : Octet) (rest : List Octet),
      s.rxs = b :: e0 :: e1 :: e2 :: e3 :: e4 :: e5 :: e6 :: e7 :: rest → b &&& 0x7F = 127 →
      exec .declen s = .next { s with len := BitVec.ofNat 64 (e0.toNat * 256 ^ 7 + e1.toNat * 256 ^ 6 + e2.toNat * 256 ^ 5 +
                                        e3.toNat * 256 ^ 4 + e4.toNat * 256 ^ 3 + e5.toNat * 256 ^ 2 + e6.toNat * 256 + e7.toNat),
                                      masked := b.getLsbD 7, status := withLenv s.status, rxs := rest,
                                      responses := s.responses ++ [.ok] })

/-- DECLEN with a clear mask flag and RXREQ set consumes one octet and raises MaskBitRequired; with RXREQ clear it accepts both flags -/
def Obligations.DeclenMaskBitRequired : Prop :=
  (∀ (s : State) (b : Octet) (rest : List Octet), noError s → s.rxs = b :: rest → b.getLsbD 7 = false →
    rxreq s.ctrl = true → exec .declen s = .next (failedWith { s with rxs := rest } 4)) ∧
  (∀ (s : State) (b : Octet) (rest : List Octet), noError s → s.rxs = b :: rest → rxreq s.ctrl = false →
    extensionOctets (b.extractLsb' 0 7) ≤ rest.length →
    ∃ t, exec .declen s = .next t ∧ t.masked = b.getLsbD 7 ∧ t.responses = s.responses ++ [.ok])

/-- DECLEN on a cut length field raises RxShort, empties RXS and keeps LEN, MASKED and LENV -/
def Obligations.DeclenShortStream : Prop :=
  ∀ s : State, noError s →
    (s.rxs = [] → exec .declen s = .next (failedWith s 1)) ∧
    (∀ (b : Octet) (rest : List Octet), s.rxs = b :: rest → (b.getLsbD 7 = true ∨ rxreq s.ctrl = false) →
      (b &&& 0x7F = 126 ∧ rest.length < 2 ∨ b &&& 0x7F = 127 ∧ rest.length < 8) →
      exec .declen s = .next (failedWith { s with rxs := [] } 1))

/-- ENCLEN: ReservedField for reserved operand bits, else one write of pack_length, whole or cut short; no register changes -/
def Obligations.EnclenSendsOrFails : Prop :=
  ∀ (s : State) (rsv : BitVec 7) (m : Bool) (len : U64), noError s →
    (rsv ≠ 0 → exec (.enclen rsv m len) s = .next (failedWith s 9)) ∧
    (∀ c : Nat, rsv = 0 → s.txcap = .octets c → c < (packLength len m).length →
      exec (.enclen rsv m len) s =
        .next (failedWith { s with txs := s.txs ++ (packLength len m).take c, txcap := .octets 0 } 2)) ∧
    (rsv = 0 → hasRoom s.txcap (packLength len m).length →
      exec (.enclen rsv m len) s =
        .next { s with txs := s.txs ++ packLength len m, txcap := capacityAfter s.txcap (packLength len m).length,
                       responses := s.responses ++ [.ok] })

/-! ### Masking transform -/

/-- LDKEY takes four octets into KEY in index order and sets KEYV; on a short stream nothing but RXS and the error change -/
def Obligations.LdkeyLoads : Prop :=
  ∀ s : State, noError s →
    (∀ (k0 k1 k2 k3 : Octet) (rest : List Octet), s.rxs = k0 :: k1 :: k2 :: k3 :: rest →
      exec .ldkey s = .next { s with key := ⟨k0, k1, k2, k3⟩, status := withKeyv s.status, rxs := rest,
                                     responses := s.responses ++ [.ok] }) ∧
    (s.rxs.length < 4 → exec .ldkey s = .next (failedWith { s with rxs := [] } 1))

/-- SETKEY loads the four key octets and sets KEYV, whatever they are -/
def Obligations.SetkeyLoads : Prop :=
  ∀ (s : State) (k0 k1 k2 k3 : Octet), noError s →
    exec (.setkey k0 k1 k2 k3) s = .next { s with key := ⟨k0, k1, k2, k3⟩, status := withKeyv s.status,
                                                  responses := s.responses ++ [.ok] }

/-- STKEY sends the four key octets, KEY[0] first; KeyNotValid before any output; TxShort sends the prefix -/
def Obligations.StkeySends : Prop :=
  ∀ s : State, noError s →
    (keyvOf s.status = false → exec .stkey s = .next (failedWith s 7)) ∧
    (keyvOf s.status = true → hasRoom s.txcap 4 →
      exec .stkey s = .next { s with txs := s.txs ++ [s.key.k0, s.key.k1, s.key.k2, s.key.k3],
                                     txcap := capacityAfter s.txcap 4, responses := s.responses ++ [.ok] }) ∧
    (∀ c : Nat, keyvOf s.status = true → s.txcap = .octets c → c < 4 →
      exec .stkey s = .next (failedWith { s with txs := s.txs ++ [s.key.k0, s.key.k1, s.key.k2, s.key.k3].take c,
                                                 txcap := .octets 0 } 2))

/-- APPLYMASK XORs BUF[a+i] with KEY[i mod 4] over the range and changes nothing else; its errors change no octet -/
def Obligations.ApplymaskTransforms : Prop :=
  ∀ (s : State) (a n : U64), noError s →
    (keyvOf s.status = false → exec (.applymask a n) s = .next (failedWith s 7)) ∧
    (keyvOf s.status = true → s.bufcap < a.toNat + n.toNat → exec (.applymask a n) s = .next (failedWith s 6)) ∧
    (keyvOf s.status = true → a.toNat + n.toNat ≤ s.bufcap →
      ∃ t, exec (.applymask a n) s = .next t ∧
        (∀ i, i < n.toNat → bufRead t (a.toNat + i) = bufRead s (a.toNat + i) ^^^ keyOctet s.key i) ∧
        (∀ x, ¬(a.toNat ≤ x ∧ x < a.toNat + n.toNat) → bufRead t x = bufRead s x) ∧
        t = { s with buf := t.buf, responses := s.responses ++ [.ok] })

/-- APPLYMASK issued twice on one range with one key restores every octet of BUF -/
def Obligations.ApplymaskTwiceRestores : Prop :=
  ∀ (s : State) (a n : U64), noError s → keyvOf s.status = true → a.toNat + n.toNat ≤ s.bufcap →
    ∃ t u, exec (.applymask a n) s = .next t ∧ exec (.applymask a n) t = .next u ∧
      (∀ x, bufRead u x = bufRead s x) ∧ u.responses = s.responses ++ [.ok, .ok] ∧
      u = { s with buf := u.buf, responses := u.responses }

/-! ### Buffer transfer -/

/-- LDBUF copies n stream octets to BUF[a..], first octet lowest; its errors as the rule orders them -/
def Obligations.LdbufLoads : Prop :=
  ∀ (s : State) (a n : U64), noError s →
    (s.bufcap < a.toNat + n.toNat → exec (.ldbuf a n) s = .next (failedWith s 6)) ∧
    (a.toNat + n.toNat ≤ s.bufcap → s.rxs.length < n.toNat →
      ∃ t, exec (.ldbuf a n) s = .next t ∧
        (∀ x, ¬(a.toNat ≤ x ∧ x < a.toNat + n.toNat) → bufRead t x = bufRead s x) ∧
        t = failedWith { s with buf := t.buf, rxs := [], draws := t.draws } 1) ∧
    (a.toNat + n.toNat ≤ s.bufcap → n.toNat ≤ s.rxs.length →
      ∃ t, exec (.ldbuf a n) s = .next t ∧
        (∀ i, i < n.toNat → some (bufRead t (a.toNat + i)) = s.rxs[i]?) ∧
        (∀ x, ¬(a.toNat ≤ x ∧ x < a.toNat + n.toNat) → bufRead t x = bufRead s x) ∧
        t = { s with buf := t.buf, rxs := s.rxs.drop n.toNat, responses := s.responses ++ [.ok] })

/-- STBUF sends BUF[a], ..., BUF[a+n-1] in one write, lowest address first, and leaves BUF alone -/
def Obligations.StbufSends : Prop :=
  ∀ (s : State) (a n : U64), noError s →
    (s.bufcap < a.toNat + n.toNat → exec (.stbuf a n) s = .next (failedWith s 6)) ∧
    (a.toNat + n.toNat ≤ s.bufcap →
      ∃ p : List Octet, p.length = n.toNat ∧ (∀ i, i < n.toNat → p[i]? = some (bufRead s (a.toNat + i))) ∧
        (hasRoom s.txcap n.toNat →
          exec (.stbuf a n) s = .next { s with txs := s.txs ++ p, txcap := capacityAfter s.txcap n.toNat,
                                               responses := s.responses ++ [.ok] }) ∧
        (∀ c : Nat, s.txcap = .octets c → c < n.toNat →
          exec (.stbuf a n) s = .next (failedWith { s with txs := s.txs ++ p.take c, txcap := .octets 0 } 2)))

/-- WRBUF writes BUF[a] alone, and is refused when a is not below BUFCAP -/
def Obligations.WrbufWrites : Prop :=
  ∀ (s : State) (a : U64) (v : Octet), noError s →
    (s.bufcap ≤ a.toNat → exec (.wrbuf a v) s = .next (failedWith s 6)) ∧
    (a.toNat < s.bufcap →
      ∃ t, exec (.wrbuf a v) s = .next t ∧ bufRead t a.toNat = v ∧ (∀ x, x ≠ a.toNat → bufRead t x = bufRead s x) ∧
        t = { s with buf := t.buf, responses := s.responses ++ [.ok] })

/-- RDBUF answers OK(zext BUF[a]) and changes nothing, and is refused when a is not below BUFCAP -/
def Obligations.RdbufReads : Prop :=
  ∀ (s : State) (a : U64),
    (noError s → s.bufcap ≤ a.toNat → exec (.rdbuf a) s = .next (failedWith s 6)) ∧
    (noError s → a.toNat < s.bufcap →
      exec (.rdbuf a) s =
        .next { s with responses := s.responses ++ [.okValue (BitVec.ofNat 64 (bufRead s a.toNat).toNat)] }) ∧
    (errorState s → exec (.rdbuf a) s = .next { s with responses := s.responses ++ [.err (errOf s.status)] })

/-- An octet written by WRBUF is what a following RDBUF of that address answers, and other addresses answer as before -/
def Obligations.WriteThenReadBuffer : Prop :=
  ∀ (s : State) (a b : U64) (v : Octet), noError s → a.toNat < s.bufcap → b.toNat < s.bufcap →
    ∃ t u, exec (.wrbuf a v) s = .next t ∧ exec (.rdbuf b) t = .next u ∧
      u.responses = s.responses ++
        [.ok, .okValue (BitVec.ofNat 64 (if b = a then v else bufRead s b.toNat).toNat)]

/-! ### System operations and reserved codes -/

/-- RDREG answers each register's contents widened with zeros, in the error state too, and ReservedField for numbers 6 and above -/
def Obligations.RdregReads : Prop :=
  ∀ s : State,
    exec (.rdreg 0) s = .next { s with responses := s.responses ++ [.okValue (BitVec.ofNat 64 s.ctrl.toNat)] } ∧
    exec (.rdreg 1) s = .next { s with responses := s.responses ++ [.okValue (BitVec.ofNat 64 s.status.toNat)] } ∧
    exec (.rdreg 2) s = .next { s with responses := s.responses ++
      [.okValue (BitVec.ofNat 64 ((if s.fin then 0x80 else 0) + s.opc.toNat))] } ∧
    exec (.rdreg 3) s = .next { s with responses := s.responses ++ [.okValue (if s.masked then 1 else 0)] } ∧
    exec (.rdreg 4) s = .next { s with responses := s.responses ++ [.okValue s.len] } ∧
    exec (.rdreg 5) s = .next { s with responses := s.responses ++
      [.okValue (BitVec.ofNat 64 (s.key.k0.toNat * 2 ^ 24 + s.key.k1.toNat * 2 ^ 16 + s.key.k2.toNat * 2 ^ 8 + s.key.k3.toNat))] } ∧
    (∀ r : Octet, 6 ≤ r.toNat →
      (noError s → exec (.rdreg r) s = .next (failedWith s 9)) ∧
      (errorState s → exec (.rdreg r) s = .next { s with responses := s.responses ++ [.err 9] }))

/-- WRREG writes CTRL alone, and only with its reserved bits 0; everything else raises ReservedField -/
def Obligations.WrregWrites : Prop :=
  ∀ (s : State) (r v : Octet), noError s →
    (r = 0 → v &&& 0xFE = 0 →
      exec (.wrreg r v) s = .next { s with ctrl := v, responses := s.responses ++ [.ok] }) ∧
    (r ≠ 0 ∨ v &&& 0xFE ≠ 0 → exec (.wrreg r v) s = .next (failedWith s 9))

/-- RESET puts every register at its reset value in every state, and touches neither BUF nor the streams -/
def Obligations.ResetOperation : Prop :=
  ∀ s : State,
    ∃ t, t = { s with opc := 0, fin := false, masked := false, len := 0, key := ⟨0, 0, 0, 0⟩, ctrl := 0x01, status := 0x00,
                      responses := s.responses ++ [.ok] } ∧
      exec .reset s = .next t ∧ exec .reset t = .next { t with responses := t.responses ++ [.ok] } ∧
      (errorState s → ∀ (i : Instr) (u : State), i ≠ .reset → exec i s = .next u → errorState u)

/-- A reserved command code raises InvalidArgument(ReservedCommand) and does nothing else -/
def Obligations.ReservedCommandRaises : Prop :=
  (∀ s : State, noError s → exec .reserved00 s = .next (failedWith s 8) ∧
    ∀ cc : Octet, exec (.reserved10 cc) s = .next (failedWith s 8) ∧ exec (.reserved20 cc) s = .next (failedWith s 8) ∧
      exec (.reserved40 cc) s = .next (failedWith s 8) ∧ exec (.reserved80 cc) s = .next (failedWith s 8)) ∧
  (∀ cc : Octet, cc = 0x00 ∨ 0x10 ≤ cc.toNat →
    ∃ i, decodeCommand [cc] = .ok i ∧ (i = .reserved00 ∨ i = .reserved10 cc ∨ i = .reserved20 cc ∨ i = .reserved40 cc ∨
      i = .reserved80 cc))

/-! ### Wire rows -/

/-- Each of the sixteen opcode rows, named or not, is decoded by DECHDR to its opcode and FIN (the model's choice: log entry 8) -/
def Obligations.LeadingOctetRowsDecode : Prop :=
  ∀ (s : State) (fin : Bool), noError s →
    (∀ (i : Instr) (opcode : BitVec 7),
      (i, opcode) ∈ [(Instr.w0Continuation fin, (0x0 : BitVec 7)),
        (Instr.w0Text fin, (0x1 : BitVec 7)),
        (Instr.w0Binary fin, (0x2 : BitVec 7)),
        (Instr.w0Unknown3 fin, (0x3 : BitVec 7)),
        (Instr.w0Unknown4 fin, (0x4 : BitVec 7)),
        (Instr.w0Unknown5 fin, (0x5 : BitVec 7)),
        (Instr.w0Unknown6 fin, (0x6 : BitVec 7)),
        (Instr.w0Unknown7 fin, (0x7 : BitVec 7)),
        (Instr.w0Close fin, (0x8 : BitVec 7)),
        (Instr.w0Ping fin, (0x9 : BitVec 7)),
        (Instr.w0Pong fin, (0xA : BitVec 7)),
        (Instr.w0UnknownB fin, (0xB : BitVec 7)),
        (Instr.w0UnknownC fin, (0xC : BitVec 7)),
        (Instr.w0UnknownD fin, (0xD : BitVec 7)),
        (Instr.w0UnknownE fin, (0xE : BitVec 7)),
        (Instr.w0UnknownF fin, (0xF : BitVec 7))] →
      exec i s = .next { s with opc := opcode, fin := fin, status := withHdrv s.status, responses := s.responses ++ [.ok] })

/-- Each row of leading octets with a reserved bit set raises ReservedBitsSet, the octet consumed (the model's choice: log entry 8) -/
def Obligations.ReservedBitRowsAreRejected : Prop :=
  (∀ (s : State) (b : Octet), noError s →
    (WellFormed (.w0RsvSet40 b) = true → exec (.w0RsvSet40 b) s = .next (failedWith s 3)) ∧
    (WellFormed (.w0RsvSet20 b) = true → exec (.w0RsvSet20 b) s = .next (failedWith s 3)) ∧
    (WellFormed (.w0RsvSet10 b) = true → exec (.w0RsvSet10 b) s = .next (failedWith s 3))) ∧
  (∀ b : Octet, b &&& 0x70 ≠ 0 →
    (WellFormed (.w0RsvSet40 b) || WellFormed (.w0RsvSet20 b) || WellFormed (.w0RsvSet10 b)) = true)

/-- Each row of length fields is decoded by DECLEN to its length and flag, or rejected for a missing mask bit (the model's choice: log entry 8) -/
def Obligations.LengthFieldRowsDecode : Prop :=
  ∀ (s : State) (m : Bool), noError s →
    ((m = true ∨ rxreq s.ctrl = false) →
      (∀ (i : Instr) (c : BitVec 7), i ∈ [.w1Inline00 m c, .w1Inline40 m c, .w1Inline60 m c, .w1Inline70 m c, .w1Inline78 m c,
          .w1Inline7C m c] → WellFormed i = true →
        exec i s = .next { s with len := BitVec.ofNat 64 c.toNat, masked := m, status := withLenv s.status,
                                  responses := s.responses ++ [.ok] }) ∧
      (∀ n : BitVec 16,
        exec (.w1Ext16 m n) s = .next { s with len := BitVec.ofNat 64 n.toNat, masked := m, status := withLenv s.status,
                                               responses := s.responses ++ [.ok] }) ∧
      (∀ n : U64,
        exec (.w1Ext64 m n) s = .next { s with len := n, masked := m, status := withLenv s.status,
                                               responses := s.responses ++ [.ok] })) ∧
    (m = false → rxreq s.ctrl = true → ∀ i : Instr, i.space = .w1 → WellFormed i = true →
      (octetAt (encode i) 0).getLsbD 7 = m →
      exec i s = .next (failedWith { s with rxs := (encode i).drop 1 ++ s.rxs } 4))

/-- DECHDR and DECLEN do what the wire row of the octets at the front of RXS does (the model's choice: log entry 8) -/
def Obligations.DecodeOperationsRunWireRows : Prop :=
  (∀ (s : State) (b : Octet) (rest : List Octet), s.rxs = b :: rest →
    exec .dechdr s = exec (decodeLeading b) { s with rxs := rest }) ∧
  (∀ (s : State) (field rest : List Octet) (i : Instr), decodeW1 field = .ok i → s.rxs = field ++ rest →
    exec .declen s = exec i { s with rxs := rest })

/-! ### Errors and whole-machine rules -/

/-- While an error is latched every command but RDREG and RESET is refused without effect, RDREG executes, and RESET leaves the error state -/
def Obligations.LatchedErrorRefuses : Prop :=
  ∀ s : State, errorState s →
    (∀ i : Instr, i.space = .command → i ≠ .reset → (∀ r, i ≠ .rdreg r) →
      exec i s = .next { s with responses := s.responses ++ [.err (errOf s.status)] }) ∧
    (∀ r : Octet, r.toNat ≤ 5 →
      ∃ v, readRegister s r = some v ∧ exec (.rdreg r) s = .next { s with responses := s.responses ++ [.okValue v] }) ∧
    (∀ r : Octet, 6 ≤ r.toNat → exec (.rdreg r) s = .next { s with responses := s.responses ++ [.err 9] }) ∧
    (∃ t, exec .reset s = .next t ∧ noError t)

/-- A latched error code changes only by RESET, and a code is latched only together with its ERR response (the model's choice: log entry 8) -/
def Obligations.FirstErrorStays : Prop :=
  ∀ (i : Instr) (s t : State), i ≠ .reset → exec i s = .next t →
    (errorState s → errOf t.status = errOf s.status) ∧
    (noError s → errOf t.status = 0 ∨
      (t.responses = s.responses ++ [.err (errOf t.status)] ∧ 1 ≤ (errOf t.status).toNat ∧ (errOf t.status).toNat ≤ 9))

/-- Every instruction completes in every state with exactly one response, and only RDREG and RDBUF answer a value (the model's choice: log entries 5 and 8) -/
def Obligations.EveryInstructionResponds : Prop :=
  ∀ (i : Instr) (s : State), ∃ (t : State) (r : Response), exec i s = .next t ∧ t.responses = s.responses ++ [r] ∧
    ∀ v, r = .okValue v → (∃ a, i = .rdbuf a) ∨ (∃ n, i = .rdreg n)

/-- An instruction that answers ERR changes no register but STATUS.ERR, and BUF at most in the range of a failed LDBUF (the model's choice: log entry 8) -/
def Obligations.FailureKeepsRegisters : Prop :=
  ∀ (i : Instr) (s t : State) (c : BitVec 4), exec i s = .next t → t.responses = s.responses ++ [.err c] →
    t.opc = s.opc ∧ t.fin = s.fin ∧ t.masked = s.masked ∧ t.len = s.len ∧ t.key = s.key ∧ t.ctrl = s.ctrl ∧
    t.status &&& 0xF0 = s.status &&& 0xF0 ∧
    (∀ x, (¬∃ a n, i = .ldbuf a n ∧ c = 1 ∧ a.toNat ≤ x ∧ x < a.toNat + n.toNat) → bufRead t x = bufRead s x)

/-- Each register changes only by the instructions that the access table names and by the wire rows, and the command port never (the model's choice: log entries 4 and 8) -/
def Obligations.RegisterFrame : Prop :=
  ∀ (i : Instr) (s t : State), exec i s = .next t →
    (¬decodesHeader i → i ≠ .reset → t.opc = s.opc ∧ t.fin = s.fin ∧ hdrvOf t.status = hdrvOf s.status) ∧
    (¬decodesLength i → i ≠ .reset → t.len = s.len ∧ t.masked = s.masked ∧ lenvOf t.status = lenvOf s.status) ∧
    (loadsKey i = false → i ≠ .reset → t.key = s.key ∧ keyvOf t.status = keyvOf s.status) ∧
    ((∀ r v, i ≠ .wrreg r v) → i ≠ .reset → t.ctrl = s.ctrl) ∧
    (i ≠ .reset → t.status.getLsbD 7 = s.status.getLsbD 7) ∧
    t.bufcap = s.bufcap ∧ t.port = s.port

/-- A valid bit that is set stays set by every instruction but RESET (the model's choice: log entry 8) -/
def Obligations.ValidBitsOnlyResetClears : Prop :=
  ∀ (i : Instr) (s t : State), i ≠ .reset → exec i s = .next t →
    (hdrvOf s.status = true → hdrvOf t.status = true) ∧ (lenvOf s.status = true → lenvOf t.status = true) ∧
    (keyvOf s.status = true → keyvOf t.status = true)

/-- Every octet of BUF outside the stored range reads as before; instructions that store nothing leave every octet (the model's choice: log entry 8) -/
def Obligations.BufferFrame : Prop :=
  ∀ (i : Instr) (s t : State), exec i s = .next t → ∀ x, ¬storesTo i x → bufRead t x = bufRead s x

/-- RXS only loses octets from its front, TXS only gains octets at its end, and each only by the operations that use it (the model's choice: log entry 8) -/
def Obligations.StreamFrame : Prop :=
  ∀ (i : Instr) (s t : State), exec i s = .next t →
    (readsStream i = false → t.rxs = s.rxs) ∧
    (i.space = .command → ∃ p, s.rxs = p ++ t.rxs) ∧
    (writesStream i = false → t.txs = s.txs ∧ t.txcap = s.txcap) ∧
    (∃ p, t.txs = s.txs ++ p ∧ (s.txcap = .unlimited → t.txcap = .unlimited) ∧
      ∀ c, s.txcap = .octets c → p.length ≤ c ∧ t.txcap = .octets (c - p.length))

/-- What a command does does not depend on RX octets it does not consume -/
def Obligations.NoLookahead : Prop :=
  ∀ (i : Instr) (s t : State) (extra : List Octet), i.space = .command → exec i s = .next t →
    t.responses ≠ s.responses ++ [.err 1] →
    exec i { s with rxs := s.rxs ++ extra } = .next { t with rxs := t.rxs ++ extra }

/-- What an instruction does does not depend on the commands still to be delivered (the model's choice: log entries 4 and 8) -/
def Obligations.CommandsStayOnThePort : Prop :=
  ∀ (i : Instr) (s t : State) (q : List (List Octet)), exec i s = .next t →
    exec i { s with port := q } = .next { t with port := q }

/-- After power-on reset every register is at its stated value, TXS is empty and no error is latched -/
def Obligations.ResetState : Prop :=
  State.reset.opc = 0 ∧ State.reset.fin = false ∧ State.reset.masked = false ∧ State.reset.len = 0 ∧
  State.reset.key = ⟨0, 0, 0, 0⟩ ∧ State.reset.ctrl = 0x01 ∧ rxreq State.reset.ctrl = true ∧ State.reset.status = 0x00 ∧
  noError State.reset ∧ State.reset.txs = []

/-- The state after power-on reset is a legal state (the model's choice: log entry 1) -/
def Obligations.ResetSatisfiesInv : Prop :=
  Inv State.reset

/-- Every step from a legal state leads to a legal state (the model's choice: log entries 2 and 13) -/
def Obligations.StepKeepsInv : Prop :=
  ∀ s t : State, Inv s → step s = .next t → Inv t

/-! ### Host sequences -/

/-- SENDFRAME puts the wire format of the frame on the TX stream, whole where the stream has room and else its accepted prefix (the model's choice: log entry 10) -/
def Obligations.SendFrameEmitsWireFormat : Prop :=
  ∀ (s : State) (f : Frame) (role : Role) (p : U64) (k : Key) (opc : BitVec 7) (payload wire : List Octet),
    frameContent f = some (opc, payload) → noError s → p.toNat + payload.length ≤ s.bufcap →
    wire = frameOctets opc true (if role = .client then some k else none) payload →
    (hasRoom s.txcap wire.length →
      ∃ t, sendFrame f role p k s = .next (t, .ok 0) ∧ noError t ∧ t.rxs = s.rxs ∧ t.txs = s.txs ++ wire ∧
        t.txcap = capacityAfter s.txcap wire.length) ∧
    (∀ c : Nat, s.txcap = .octets c → c < wire.length →
      ∃ t, sendFrame f role p k s = .next (t, .error (.block 2)) ∧ errOf t.status = 2 ∧ t.rxs = s.rxs ∧
        t.txs = s.txs ++ wire.take c ∧ t.txcap = .octets 0)

/-- SENDFRAME of Invalid, of a payload that does not fit the buffer, or in the error state sends nothing and fails by name (the model's choice: log entry 10) -/
def Obligations.SendFrameStopsAtFirstError : Prop :=
  ∀ (s : State) (f : Frame) (role : Role) (p : U64) (k : Key),
    (f = .invalid → sendFrame f role p k s = .next (s, .error .invalidFrame)) ∧
    (∀ (opc : BitVec 7) (payload : List Octet), frameContent f = some (opc, payload) → noError s → payload ≠ [] →
      s.bufcap < p.toNat + payload.length →
      ∃ t, sendFrame f role p k s = .next (t, .error (.block 6)) ∧ errOf t.status = 6 ∧
        t.rxs = s.rxs ∧ t.txs = s.txs ∧ t.txcap = s.txcap ∧
        (∀ x, ¬(p.toNat ≤ x ∧ x < p.toNat + payload.length) → bufRead t x = bufRead s x)) ∧
    (f ≠ .invalid → errorState s →
      ∃ t, sendFrame f role p k s = .next (t, .error (.block (errOf s.status))) ∧ t.status = s.status ∧
        t.rxs = s.rxs ∧ t.txs = s.txs ∧ t.txcap = s.txcap ∧ t.buf = s.buf)

/-- RECVFRAME of a frame on the wire yields the frame, masked or not, and leaves the rest of the stream (the model's choice: log entry 10) -/
def Obligations.RecvFrameReadsWireFormat : Prop :=
  ∀ (s : State) (f : Frame) (key : Option Key) (p : U64) (opc : BitVec 7) (payload rest : List Octet),
    frameContent f = some (opc, payload) → noError s → s.bufcap ≤ 2 ^ 64 → p.toNat + payload.length ≤ s.bufcap →
    (8 ≤ opc.toNat → payload.length ≤ 125) → (key.isSome = true ∨ rxreq s.ctrl = false) →
    s.rxs = frameOctets opc true key payload ++ rest →
    ∃ t, recvFrame p s = .next (t, .ok f) ∧ t.rxs = rest ∧ noError t

/-- A frame sent by one block and received by another comes back bit for bit (the model's choice: log entry 10) -/
def Obligations.FrameRoundTrip : Prop :=
  ∀ (s r : State) (f : Frame) (role : Role) (p q : U64) (k : Key) (opc : BitVec 7) (payload rest : List Octet),
    frameContent f = some (opc, payload) → (8 ≤ opc.toNat → payload.length ≤ 125) →
    noError s → hasRoom s.txcap (frameOctets opc true (if role = .client then some k else none) payload).length →
    p.toNat + payload.length ≤ s.bufcap →
    noError r → r.bufcap ≤ 2 ^ 64 → q.toNat + payload.length ≤ r.bufcap → (role = .client ∨ rxreq r.ctrl = false) →
    ∃ (t : State) (wire : List Octet), sendFrame f role p k s = .next (t, .ok 0) ∧ t.txs = s.txs ++ wire ∧
      (r.rxs = wire ++ rest → ∃ u, recvFrame q r = .next (u, .ok f) ∧ u.rxs = rest ∧ noError u)

/-- RECVFRAME of a Continuation frame fails with UnsupportedOperation and leaves its payload unread (the model's choice: log entry 10) -/
def Obligations.ContinuationIsUnsupported : Prop :=
  ∀ (s : State) (fin : Bool) (key : Option Key) (p : U64) (payload rest : List Octet),
    noError s → payload.length < 2 ^ 64 → (key.isSome = true ∨ rxreq s.ctrl = false) →
    s.rxs = frameOctets 0 fin key payload ++ rest →
    ∃ t, recvFrame p s = .next (t, .error .unsupportedOperation) ∧ noError t ∧
      t.rxs = (match key with
        | some k => maskOctets payload k
        | none => payload) ++ rest

/-- The receive dispatch: control frames must be final and at most 125 octets, unnamed opcodes fail, data frames are never checked (the model's choice: log entry 10) -/
def Obligations.DispatchChecksControlFrames : Prop :=
  ∀ (s : State) (p n : U64) (fin : Bool),
    (∀ opc : BitVec 7, opc = 0x8 ∨ opc = 0x9 ∨ opc = 0xA → (fin = false ∨ 125 < n.toNat) →
      dispatchFrame opc fin p n s = .next (s, .error .controlFrame)) ∧
    (fin = true → n.toNat < 2 → dispatchFrame 0x8 fin p n s = .refused .closeTooShort) ∧
    (∀ opc : BitVec 7, (3 ≤ opc.toNat ∧ opc.toNat ≤ 7) ∨ (11 ≤ opc.toNat ∧ opc.toNat ≤ 15) →
      dispatchFrame opc fin p n s = .next (s, .error .unknownOpcode)) ∧
    (∃ payload : Payload, payload.val = bufSlice s p.toNat n.toNat ∧
      dispatchFrame 0x1 fin p n s = .next (s, .ok (.text payload)) ∧
      dispatchFrame 0x2 fin p n s = .next (s, .ok (.binary payload)))

/-! ### Response encoding -/

/-- Two responses with the same spelling are the same up to OK, and an error's spelling is its code -/
def Obligations.ResponseOctetsAreInjective : Prop :=
  (∀ r q : Response, r ≠ .err 0 → q ≠ .err 0 → responseOctets r = responseOctets q → r = q) ∧
  (∀ v : U64, (responseOctets (.okValue v)).length = 9 ∧ octetAt (responseOctets (.okValue v)) 0 = 0 ∧
    u64At (responseOctets (.okValue v)) 1 = v) ∧
  (∀ c : BitVec 4, responseOctets (.err c) = [BitVec.ofNat 8 c.toNat]) ∧ responseOctets .ok = [0x00]
end

