-- ==== Sys2Proof/Laws/Encoding.lean ====
section
/-! SUPPORT. The big-endian helpers undo each other, and the one-bit packings can be read back. -/

namespace Sys2Proof

@[simp] theorem octetAt_zero (b : Octet) (l : List Octet) : octetAt (b :: l) 0 = b := rfl
@[simp] theorem octetAt_succ (b : Octet) (l : List Octet) (k : Nat) : octetAt (b :: l) (k + 1) = octetAt l k := rfl

@[simp] theorem u64At_succ (b : Octet) (l : List Octet) (k : Nat) : u64At (b :: l) (k + 1) = u64At l k := rfl

@[simp] theorem bytes16_length (v : BitVec 16) : (bytes16 v).length = 2 := rfl
@[simp] theorem bytes64_length (v : U64) : (bytes64 v).length = 8 := rfl

/-- `be16(bytes16(v)) = v` (R9), whatever follows. -/
@[simp] theorem u16At_bytes16_append (v : BitVec 16) (rest : List Octet) : u16At (bytes16 v ++ rest) 0 = v := by
  apply BitVec.eq_of_toNat_eq
  simp [u16At, octetAt, bytes16, be16, BitVec.extractLsb'_toNat, Nat.shiftRight_eq_div_pow]
  omega

@[simp] theorem u16At_bytes16 (v : BitVec 16) : u16At (bytes16 v) 0 = v := by
  simpa using u16At_bytes16_append v []

/-- `be64(bytes64(v)) = v` (R9), whatever follows. -/
@[simp] theorem u64At_bytes64_append (v : U64) (rest : List Octet) : u64At (bytes64 v ++ rest) 0 = v := by
  apply BitVec.eq_of_toNat_eq
  simp [u64At, octetAt, bytes64, be64, BitVec.extractLsb'_toNat, Nat.shiftRight_eq_div_pow]
  omega

@[simp] theorem u64At_bytes64 (v : U64) : u64At (bytes64 v) 0 = v := by
  simpa using u64At_bytes64_append v []

/-- The number behind a 64-bit number. -/
@[simp] theorem u64At_after_bytes64 (v : U64) (rest : List Octet) : u64At (bytes64 v ++ rest) 8 = u64At rest 0 := by
  simp [u64At, octetAt, bytes64]

/-- The octet behind a 64-bit number. -/
@[simp] theorem octetAt_after_bytes64 (v : U64) (rest : List Octet) : octetAt (bytes64 v ++ rest) 8 = octetAt rest 0 := by
  simp [octetAt, bytes64]

/-- Both fields of `{b, low}` read back. -/
theorem flagOctet_fields (b : Bool) (low : BitVec 7) : (flagOctet b low)[7] = b ∧ (flagOctet b low).extractLsb' 0 7 = low := by
  refine ⟨by cases b <;> simp [flagOctet], ?_⟩
  ext i hi; interval_cases i <;> cases b <;> simp [flagOctet]

/-- Both fields of `{high, b}` read back. -/
theorem octetFlag_fields (high : BitVec 7) (b : Bool) : (octetFlag high b)[0] = b ∧ (octetFlag high b).extractLsb' 1 7 = high := by
  refine ⟨by cases b <;> simp [octetFlag], ?_⟩
  ext i hi; interval_cases i <;> cases b <;> simp [octetFlag]

@[simp] theorem flagOctet_flag (b : Bool) (low : BitVec 7) : (flagOctet b low)[7] = b := (flagOctet_fields b low).1

@[simp] theorem flagOctet_low (b : Bool) (low : BitVec 7) : (flagOctet b low).extractLsb' 0 7 = low := (flagOctet_fields b low).2

@[simp] theorem octetFlag_flag (high : BitVec 7) (b : Bool) : (octetFlag high b)[0] = b := (octetFlag_fields high b).1

@[simp] theorem octetFlag_high (high : BitVec 7) (b : Bool) : (octetFlag high b).extractLsb' 1 7 = high := (octetFlag_fields high b).2

/-- An octet is its flag and its low seven bits. -/
theorem flagOctet_split (b : Octet) : flagOctet b[7] (b.extractLsb' 0 7) = b := by
  ext i hi; interval_cases i <;> cases h : b[7] <;> simp_all [flagOctet]

/-- An octet is its high seven bits and its flag. -/
theorem octetFlag_split (b : Octet) : octetFlag (b.extractLsb' 1 7) b[0] = b := by
  ext i hi; interval_cases i <;> cases h : b[0] <;> simp_all [octetFlag]

end Sys2Proof
end

