-- ==== Sys2Proof/Laws/Flags.lean ====
section
/-! SUPPORT. The fields of STATUS and CTRL after each write: one lemma per reader and per writer. -/

namespace Sys2Proof.Machine

/-- Every field of STATUS after `withErr`. -/
theorem withErr_fields (v : Octet) (c : BitVec 4) : errOf (withErr v c) = c ∧ hdrvOf (withErr v c) = hdrvOf v ∧ lenvOf (withErr v c) = lenvOf v ∧
    keyvOf (withErr v c) = keyvOf v ∧ (withErr v c)[7] = v[7] := by
  refine ⟨?_, ?_, ?_, ?_, ?_⟩
  · ext i hi; interval_cases i <;> simp [errOf, withErr]
  all_goals simp [hdrvOf, lenvOf, keyvOf, withErr]

@[simp] theorem errOf_withErr (v : Octet) (c : BitVec 4) : errOf (withErr v c) = c := (withErr_fields v c).1

@[simp] theorem hdrvOf_withErr (v : Octet) (c : BitVec 4) : hdrvOf (withErr v c) = hdrvOf v := (withErr_fields v c).2.1

@[simp] theorem lenvOf_withErr (v : Octet) (c : BitVec 4) : lenvOf (withErr v c) = lenvOf v := (withErr_fields v c).2.2.1

@[simp] theorem keyvOf_withErr (v : Octet) (c : BitVec 4) : keyvOf (withErr v c) = keyvOf v := (withErr_fields v c).2.2.2.1

@[simp] theorem bit7_withErr (v : Octet) (c : BitVec 4) : (withErr v c)[7] = v[7] := (withErr_fields v c).2.2.2.2

/-- Every field of STATUS after `withHdrv`. -/
theorem withHdrv_fields (v : Octet) : errOf (withHdrv v) = errOf v ∧ hdrvOf (withHdrv v) = true ∧ lenvOf (withHdrv v) = lenvOf v ∧
    keyvOf (withHdrv v) = keyvOf v ∧ (withHdrv v)[7] = v[7] := by
  refine ⟨?_, ?_, ?_, ?_, ?_⟩
  · ext i hi; interval_cases i <;> simp [errOf, withHdrv]
  all_goals simp [hdrvOf, lenvOf, keyvOf, withHdrv]

@[simp] theorem errOf_withHdrv (v : Octet) : errOf (withHdrv v) = errOf v := (withHdrv_fields v).1

@[simp] theorem hdrvOf_withHdrv (v : Octet) : hdrvOf (withHdrv v) = true := (withHdrv_fields v).2.1

@[simp] theorem lenvOf_withHdrv (v : Octet) : lenvOf (withHdrv v) = lenvOf v := (withHdrv_fields v).2.2.1

@[simp] theorem keyvOf_withHdrv (v : Octet) : keyvOf (withHdrv v) = keyvOf v := (withHdrv_fields v).2.2.2.1

@[simp] theorem bit7_withHdrv (v : Octet) : (withHdrv v)[7] = v[7] := (withHdrv_fields v).2.2.2.2

/-- Every field of STATUS after `withLenv`. -/
theorem withLenv_fields (v : Octet) : errOf (withLenv v) = errOf v ∧ hdrvOf (withLenv v) = hdrvOf v ∧ lenvOf (withLenv v) = true ∧
    keyvOf (withLenv v) = keyvOf v ∧ (withLenv v)[7] = v[7] := by
  refine ⟨?_, ?_, ?_, ?_, ?_⟩
  · ext i hi; interval_cases i <;> simp [errOf, withLenv]
  all_goals simp [hdrvOf, lenvOf, keyvOf, withLenv]

@[simp] theorem errOf_withLenv (v : Octet) : errOf (withLenv v) = errOf v := (withLenv_fields v).1

@[simp] theorem hdrvOf_withLenv (v : Octet) : hdrvOf (withLenv v) = hdrvOf v := (withLenv_fields v).2.1

@[simp] theorem lenvOf_withLenv (v : Octet) : lenvOf (withLenv v) = true := (withLenv_fields v).2.2.1

@[simp] theorem keyvOf_withLenv (v : Octet) : keyvOf (withLenv v) = keyvOf v := (withLenv_fields v).2.2.2.1

@[simp] theorem bit7_withLenv (v : Octet) : (withLenv v)[7] = v[7] := (withLenv_fields v).2.2.2.2

/-- Every field of STATUS after `withKeyv`. -/
theorem withKeyv_fields (v : Octet) : errOf (withKeyv v) = errOf v ∧ hdrvOf (withKeyv v) = hdrvOf v ∧ lenvOf (withKeyv v) = lenvOf v ∧
    keyvOf (withKeyv v) = true ∧ (withKeyv v)[7] = v[7] := by
  refine ⟨?_, ?_, ?_, ?_, ?_⟩
  · ext i hi; interval_cases i <;> simp [errOf, withKeyv]
  all_goals simp [hdrvOf, lenvOf, keyvOf, withKeyv]

@[simp] theorem errOf_withKeyv (v : Octet) : errOf (withKeyv v) = errOf v := (withKeyv_fields v).1

@[simp] theorem hdrvOf_withKeyv (v : Octet) : hdrvOf (withKeyv v) = hdrvOf v := (withKeyv_fields v).2.1

@[simp] theorem lenvOf_withKeyv (v : Octet) : lenvOf (withKeyv v) = lenvOf v := (withKeyv_fields v).2.2.1

@[simp] theorem keyvOf_withKeyv (v : Octet) : keyvOf (withKeyv v) = true := (withKeyv_fields v).2.2.2.1

@[simp] theorem bit7_withKeyv (v : Octet) : (withKeyv v)[7] = v[7] := (withKeyv_fields v).2.2.2.2

/-- HDR reads back the octet it came from (R37). -/
theorem hdrView_octet (b : Octet) : hdrView (b.getLsbD 7) (b.extractLsb' 0 7) = b := by
  ext i hi; interval_cases i <;> cases h : b.getLsbD 7 <;> simp_all [hdrView, flagOctet]

theorem errorCode_ne_zero (e : ErrorCode) : errorCode e ≠ 0 := by cases e <;> decide

theorem errorCode_le_nine (e : ErrorCode) : (errorCode e).toNat ≤ 9 := by cases e <;> decide

theorem errorCode_injective (e f : ErrorCode) (h : errorCode e = errorCode f) : e = f := by
  cases e <;> cases f <;> first | rfl | (revert h; decide)

end Sys2Proof.Machine
end

