-- ==== Sys2Proof/Laws/State.lean ====
section
/-! SUPPORT. One lemma per field and per named update of State, so that no proof unfolds a record update. -/

namespace Sys2Proof.Machine

/-! ### respond: one response more -/

@[simp] theorem respond_opc (s : State) (r : Response) : (respond s r).opc = s.opc := rfl
@[simp] theorem respond_fin (s : State) (r : Response) : (respond s r).fin = s.fin := rfl
@[simp] theorem respond_masked (s : State) (r : Response) : (respond s r).masked = s.masked := rfl
@[simp] theorem respond_len (s : State) (r : Response) : (respond s r).len = s.len := rfl
@[simp] theorem respond_key (s : State) (r : Response) : (respond s r).key = s.key := rfl
@[simp] theorem respond_ctrl (s : State) (r : Response) : (respond s r).ctrl = s.ctrl := rfl
@[simp] theorem respond_status (s : State) (r : Response) : (respond s r).status = s.status := rfl
@[simp] theorem respond_buf (s : State) (r : Response) : (respond s r).buf = s.buf := rfl
@[simp] theorem respond_bufcap (s : State) (r : Response) : (respond s r).bufcap = s.bufcap := rfl
@[simp] theorem respond_rxs (s : State) (r : Response) : (respond s r).rxs = s.rxs := rfl
@[simp] theorem respond_txs (s : State) (r : Response) : (respond s r).txs = s.txs := rfl
@[simp] theorem respond_txcap (s : State) (r : Response) : (respond s r).txcap = s.txcap := rfl
@[simp] theorem respond_port (s : State) (r : Response) : (respond s r).port = s.port := rfl
@[simp] theorem respond_responses (s : State) (r : Response) : (respond s r).responses = s.responses ++ [r] := rfl
@[simp] theorem respond_draws (s : State) (r : Response) : (respond s r).draws = s.draws := rfl

/-! ### setHeader: a decoded leading octet -/

@[simp] theorem setHeader_opc (s : State) (o : BitVec 7) (f : Bool) : (setHeader s o f).opc = o := rfl
@[simp] theorem setHeader_fin (s : State) (o : BitVec 7) (f : Bool) : (setHeader s o f).fin = f := rfl
@[simp] theorem setHeader_masked (s : State) (o : BitVec 7) (f : Bool) : (setHeader s o f).masked = s.masked := rfl
@[simp] theorem setHeader_len (s : State) (o : BitVec 7) (f : Bool) : (setHeader s o f).len = s.len := rfl
@[simp] theorem setHeader_key (s : State) (o : BitVec 7) (f : Bool) : (setHeader s o f).key = s.key := rfl
@[simp] theorem setHeader_ctrl (s : State) (o : BitVec 7) (f : Bool) : (setHeader s o f).ctrl = s.ctrl := rfl
@[simp] theorem setHeader_status (s : State) (o : BitVec 7) (f : Bool) : (setHeader s o f).status = withHdrv s.status := rfl
@[simp] theorem setHeader_buf (s : State) (o : BitVec 7) (f : Bool) : (setHeader s o f).buf = s.buf := rfl
@[simp] theorem setHeader_bufcap (s : State) (o : BitVec 7) (f : Bool) : (setHeader s o f).bufcap = s.bufcap := rfl
@[simp] theorem setHeader_rxs (s : State) (o : BitVec 7) (f : Bool) : (setHeader s o f).rxs = s.rxs := rfl
@[simp] theorem setHeader_txs (s : State) (o : BitVec 7) (f : Bool) : (setHeader s o f).txs = s.txs := rfl
@[simp] theorem setHeader_txcap (s : State) (o : BitVec 7) (f : Bool) : (setHeader s o f).txcap = s.txcap := rfl
@[simp] theorem setHeader_port (s : State) (o : BitVec 7) (f : Bool) : (setHeader s o f).port = s.port := rfl
@[simp] theorem setHeader_responses (s : State) (o : BitVec 7) (f : Bool) : (setHeader s o f).responses = s.responses := rfl
@[simp] theorem setHeader_draws (s : State) (o : BitVec 7) (f : Bool) : (setHeader s o f).draws = s.draws := rfl

/-! ### setLength: a decoded length field -/

@[simp] theorem setLength_opc (s : State) (n : U64) (m : Bool) : (setLength s n m).opc = s.opc := rfl
@[simp] theorem setLength_fin (s : State) (n : U64) (m : Bool) : (setLength s n m).fin = s.fin := rfl
@[simp] theorem setLength_masked (s : State) (n : U64) (m : Bool) : (setLength s n m).masked = m := rfl
@[simp] theorem setLength_len (s : State) (n : U64) (m : Bool) : (setLength s n m).len = n := rfl
@[simp] theorem setLength_key (s : State) (n : U64) (m : Bool) : (setLength s n m).key = s.key := rfl
@[simp] theorem setLength_ctrl (s : State) (n : U64) (m : Bool) : (setLength s n m).ctrl = s.ctrl := rfl
@[simp] theorem setLength_status (s : State) (n : U64) (m : Bool) : (setLength s n m).status = withLenv s.status := rfl
@[simp] theorem setLength_buf (s : State) (n : U64) (m : Bool) : (setLength s n m).buf = s.buf := rfl
@[simp] theorem setLength_bufcap (s : State) (n : U64) (m : Bool) : (setLength s n m).bufcap = s.bufcap := rfl
@[simp] theorem setLength_rxs (s : State) (n : U64) (m : Bool) : (setLength s n m).rxs = s.rxs := rfl
@[simp] theorem setLength_txs (s : State) (n : U64) (m : Bool) : (setLength s n m).txs = s.txs := rfl
@[simp] theorem setLength_txcap (s : State) (n : U64) (m : Bool) : (setLength s n m).txcap = s.txcap := rfl
@[simp] theorem setLength_port (s : State) (n : U64) (m : Bool) : (setLength s n m).port = s.port := rfl
@[simp] theorem setLength_responses (s : State) (n : U64) (m : Bool) : (setLength s n m).responses = s.responses := rfl
@[simp] theorem setLength_draws (s : State) (n : U64) (m : Bool) : (setLength s n m).draws = s.draws := rfl

/-! ### setKey: a loaded key -/

@[simp] theorem setKey_opc (s : State) (k : Key) : (setKey s k).opc = s.opc := rfl
@[simp] theorem setKey_fin (s : State) (k : Key) : (setKey s k).fin = s.fin := rfl
@[simp] theorem setKey_masked (s : State) (k : Key) : (setKey s k).masked = s.masked := rfl
@[simp] theorem setKey_len (s : State) (k : Key) : (setKey s k).len = s.len := rfl
@[simp] theorem setKey_key (s : State) (k : Key) : (setKey s k).key = k := rfl
@[simp] theorem setKey_ctrl (s : State) (k : Key) : (setKey s k).ctrl = s.ctrl := rfl
@[simp] theorem setKey_status (s : State) (k : Key) : (setKey s k).status = withKeyv s.status := rfl
@[simp] theorem setKey_buf (s : State) (k : Key) : (setKey s k).buf = s.buf := rfl
@[simp] theorem setKey_bufcap (s : State) (k : Key) : (setKey s k).bufcap = s.bufcap := rfl
@[simp] theorem setKey_rxs (s : State) (k : Key) : (setKey s k).rxs = s.rxs := rfl
@[simp] theorem setKey_txs (s : State) (k : Key) : (setKey s k).txs = s.txs := rfl
@[simp] theorem setKey_txcap (s : State) (k : Key) : (setKey s k).txcap = s.txcap := rfl
@[simp] theorem setKey_port (s : State) (k : Key) : (setKey s k).port = s.port := rfl
@[simp] theorem setKey_responses (s : State) (k : Key) : (setKey s k).responses = s.responses := rfl
@[simp] theorem setKey_draws (s : State) (k : Key) : (setKey s k).draws = s.draws := rfl

/-! ### setCtrl: CTRL written -/

@[simp] theorem setCtrl_opc (s : State) (v : Octet) : (setCtrl s v).opc = s.opc := rfl
@[simp] theorem setCtrl_fin (s : State) (v : Octet) : (setCtrl s v).fin = s.fin := rfl
@[simp] theorem setCtrl_masked (s : State) (v : Octet) : (setCtrl s v).masked = s.masked := rfl
@[simp] theorem setCtrl_len (s : State) (v : Octet) : (setCtrl s v).len = s.len := rfl
@[simp] theorem setCtrl_key (s : State) (v : Octet) : (setCtrl s v).key = s.key := rfl
@[simp] theorem setCtrl_ctrl (s : State) (v : Octet) : (setCtrl s v).ctrl = v := rfl
@[simp] theorem setCtrl_status (s : State) (v : Octet) : (setCtrl s v).status = s.status := rfl
@[simp] theorem setCtrl_buf (s : State) (v : Octet) : (setCtrl s v).buf = s.buf := rfl
@[simp] theorem setCtrl_bufcap (s : State) (v : Octet) : (setCtrl s v).bufcap = s.bufcap := rfl
@[simp] theorem setCtrl_rxs (s : State) (v : Octet) : (setCtrl s v).rxs = s.rxs := rfl
@[simp] theorem setCtrl_txs (s : State) (v : Octet) : (setCtrl s v).txs = s.txs := rfl
@[simp] theorem setCtrl_txcap (s : State) (v : Octet) : (setCtrl s v).txcap = s.txcap := rfl
@[simp] theorem setCtrl_port (s : State) (v : Octet) : (setCtrl s v).port = s.port := rfl
@[simp] theorem setCtrl_responses (s : State) (v : Octet) : (setCtrl s v).responses = s.responses := rfl
@[simp] theorem setCtrl_draws (s : State) (v : Octet) : (setCtrl s v).draws = s.draws := rfl

/-! ### setBuf: octets written in BUF -/

@[simp] theorem setBuf_opc (s : State) (a : Nat) (p : List Octet) : (setBuf s a p).opc = s.opc := rfl
@[simp] theorem setBuf_fin (s : State) (a : Nat) (p : List Octet) : (setBuf s a p).fin = s.fin := rfl
@[simp] theorem setBuf_masked (s : State) (a : Nat) (p : List Octet) : (setBuf s a p).masked = s.masked := rfl
@[simp] theorem setBuf_len (s : State) (a : Nat) (p : List Octet) : (setBuf s a p).len = s.len := rfl
@[simp] theorem setBuf_key (s : State) (a : Nat) (p : List Octet) : (setBuf s a p).key = s.key := rfl
@[simp] theorem setBuf_ctrl (s : State) (a : Nat) (p : List Octet) : (setBuf s a p).ctrl = s.ctrl := rfl
@[simp] theorem setBuf_status (s : State) (a : Nat) (p : List Octet) : (setBuf s a p).status = s.status := rfl
@[simp] theorem setBuf_buf (s : State) (a : Nat) (p : List Octet) : (setBuf s a p).buf = Memory.writeList s.buf a p := rfl
@[simp] theorem setBuf_bufcap (s : State) (a : Nat) (p : List Octet) : (setBuf s a p).bufcap = s.bufcap := rfl
@[simp] theorem setBuf_rxs (s : State) (a : Nat) (p : List Octet) : (setBuf s a p).rxs = s.rxs := rfl
@[simp] theorem setBuf_txs (s : State) (a : Nat) (p : List Octet) : (setBuf s a p).txs = s.txs := rfl
@[simp] theorem setBuf_txcap (s : State) (a : Nat) (p : List Octet) : (setBuf s a p).txcap = s.txcap := rfl
@[simp] theorem setBuf_port (s : State) (a : Nat) (p : List Octet) : (setBuf s a p).port = s.port := rfl
@[simp] theorem setBuf_responses (s : State) (a : Nat) (p : List Octet) : (setBuf s a p).responses = s.responses := rfl
@[simp] theorem setBuf_draws (s : State) (a : Nat) (p : List Octet) : (setBuf s a p).draws = s.draws := rfl

/-! ### spoilRange: a range made unspecified -/

@[simp] theorem spoilRange_opc (s : State) (a n : Nat) : (spoilRange s a n).opc = s.opc := rfl
@[simp] theorem spoilRange_fin (s : State) (a n : Nat) : (spoilRange s a n).fin = s.fin := rfl
@[simp] theorem spoilRange_masked (s : State) (a n : Nat) : (spoilRange s a n).masked = s.masked := rfl
@[simp] theorem spoilRange_len (s : State) (a n : Nat) : (spoilRange s a n).len = s.len := rfl
@[simp] theorem spoilRange_key (s : State) (a n : Nat) : (spoilRange s a n).key = s.key := rfl
@[simp] theorem spoilRange_ctrl (s : State) (a n : Nat) : (spoilRange s a n).ctrl = s.ctrl := rfl
@[simp] theorem spoilRange_status (s : State) (a n : Nat) : (spoilRange s a n).status = s.status := rfl
@[simp] theorem spoilRange_buf (s : State) (a n : Nat) : (spoilRange s a n).buf = Memory.writeList s.buf a (freeOctets s.draws a n) := rfl
@[simp] theorem spoilRange_bufcap (s : State) (a n : Nat) : (spoilRange s a n).bufcap = s.bufcap := rfl
@[simp] theorem spoilRange_rxs (s : State) (a n : Nat) : (spoilRange s a n).rxs = s.rxs := rfl
@[simp] theorem spoilRange_txs (s : State) (a n : Nat) : (spoilRange s a n).txs = s.txs := rfl
@[simp] theorem spoilRange_txcap (s : State) (a n : Nat) : (spoilRange s a n).txcap = s.txcap := rfl
@[simp] theorem spoilRange_port (s : State) (a n : Nat) : (spoilRange s a n).port = s.port := rfl
@[simp] theorem spoilRange_responses (s : State) (a n : Nat) : (spoilRange s a n).responses = s.responses := rfl
@[simp] theorem spoilRange_draws (s : State) (a n : Nat) : (spoilRange s a n).draws = s.draws + 1 := rfl

/-! ### resetRegisters: the registers' reset values -/

@[simp] theorem resetRegisters_opc (s : State) : (resetRegisters s).opc = 0 := rfl
@[simp] theorem resetRegisters_fin (s : State) : (resetRegisters s).fin = false := rfl
@[simp] theorem resetRegisters_masked (s : State) : (resetRegisters s).masked = false := rfl
@[simp] theorem resetRegisters_len (s : State) : (resetRegisters s).len = 0 := rfl
@[simp] theorem resetRegisters_key (s : State) : (resetRegisters s).key = ⟨0, 0, 0, 0⟩ := rfl
@[simp] theorem resetRegisters_ctrl (s : State) : (resetRegisters s).ctrl = 0x01 := rfl
@[simp] theorem resetRegisters_status (s : State) : (resetRegisters s).status = 0x00 := rfl
@[simp] theorem resetRegisters_buf (s : State) : (resetRegisters s).buf = s.buf := rfl
@[simp] theorem resetRegisters_bufcap (s : State) : (resetRegisters s).bufcap = s.bufcap := rfl
@[simp] theorem resetRegisters_rxs (s : State) : (resetRegisters s).rxs = s.rxs := rfl
@[simp] theorem resetRegisters_txs (s : State) : (resetRegisters s).txs = s.txs := rfl
@[simp] theorem resetRegisters_txcap (s : State) : (resetRegisters s).txcap = s.txcap := rfl
@[simp] theorem resetRegisters_port (s : State) : (resetRegisters s).port = s.port := rfl
@[simp] theorem resetRegisters_responses (s : State) : (resetRegisters s).responses = s.responses := rfl
@[simp] theorem resetRegisters_draws (s : State) : (resetRegisters s).draws = s.draws := rfl

/-! ### arrive: a field at the front of RXS -/

@[simp] theorem arrive_opc (s : State) (l : List Octet) : (arrive s l).opc = s.opc := rfl
@[simp] theorem arrive_fin (s : State) (l : List Octet) : (arrive s l).fin = s.fin := rfl
@[simp] theorem arrive_masked (s : State) (l : List Octet) : (arrive s l).masked = s.masked := rfl
@[simp] theorem arrive_len (s : State) (l : List Octet) : (arrive s l).len = s.len := rfl
@[simp] theorem arrive_key (s : State) (l : List Octet) : (arrive s l).key = s.key := rfl
@[simp] theorem arrive_ctrl (s : State) (l : List Octet) : (arrive s l).ctrl = s.ctrl := rfl
@[simp] theorem arrive_status (s : State) (l : List Octet) : (arrive s l).status = s.status := rfl
@[simp] theorem arrive_buf (s : State) (l : List Octet) : (arrive s l).buf = s.buf := rfl
@[simp] theorem arrive_bufcap (s : State) (l : List Octet) : (arrive s l).bufcap = s.bufcap := rfl
@[simp] theorem arrive_rxs (s : State) (l : List Octet) : (arrive s l).rxs = l ++ s.rxs := rfl
@[simp] theorem arrive_txs (s : State) (l : List Octet) : (arrive s l).txs = s.txs := rfl
@[simp] theorem arrive_txcap (s : State) (l : List Octet) : (arrive s l).txcap = s.txcap := rfl
@[simp] theorem arrive_port (s : State) (l : List Octet) : (arrive s l).port = s.port := rfl
@[simp] theorem arrive_responses (s : State) (l : List Octet) : (arrive s l).responses = s.responses := rfl
@[simp] theorem arrive_draws (s : State) (l : List Octet) : (arrive s l).draws = s.draws := rfl

/-! ### latch: the first error is recorded -/

@[simp] theorem latch_opc (s : State) (e : ErrorCode) : (latch s e).opc = s.opc := by
  unfold latch; split <;> rfl

@[simp] theorem latch_fin (s : State) (e : ErrorCode) : (latch s e).fin = s.fin := by
  unfold latch; split <;> rfl

@[simp] theorem latch_masked (s : State) (e : ErrorCode) : (latch s e).masked = s.masked := by
  unfold latch; split <;> rfl

@[simp] theorem latch_len (s : State) (e : ErrorCode) : (latch s e).len = s.len := by
  unfold latch; split <;> rfl

@[simp] theorem latch_key (s : State) (e : ErrorCode) : (latch s e).key = s.key := by
  unfold latch; split <;> rfl

@[simp] theorem latch_ctrl (s : State) (e : ErrorCode) : (latch s e).ctrl = s.ctrl := by
  unfold latch; split <;> rfl

theorem latch_status (s : State) (e : ErrorCode) :
    (latch s e).status = if errOf s.status = 0 then withErr s.status (errorCode e) else s.status := by
  unfold latch; split <;> rfl

@[simp] theorem latch_buf (s : State) (e : ErrorCode) : (latch s e).buf = s.buf := by
  unfold latch; split <;> rfl

@[simp] theorem latch_bufcap (s : State) (e : ErrorCode) : (latch s e).bufcap = s.bufcap := by
  unfold latch; split <;> rfl

@[simp] theorem latch_rxs (s : State) (e : ErrorCode) : (latch s e).rxs = s.rxs := by
  unfold latch; split <;> rfl

@[simp] theorem latch_txs (s : State) (e : ErrorCode) : (latch s e).txs = s.txs := by
  unfold latch; split <;> rfl

@[simp] theorem latch_txcap (s : State) (e : ErrorCode) : (latch s e).txcap = s.txcap := by
  unfold latch; split <;> rfl

@[simp] theorem latch_port (s : State) (e : ErrorCode) : (latch s e).port = s.port := by
  unfold latch; split <;> rfl

@[simp] theorem latch_responses (s : State) (e : ErrorCode) : (latch s e).responses = s.responses := by
  unfold latch; split <;> rfl

@[simp] theorem latch_draws (s : State) (e : ErrorCode) : (latch s e).draws = s.draws := by
  unfold latch; split <;> rfl

/-! ### rxRead and txWrite: what each leaves alone -/

@[simp] theorem rxRead_opc (s : State) (n : Nat) : (rxRead s n).2.opc = s.opc := by
  unfold rxRead; split <;> rfl

@[simp] theorem rxRead_fin (s : State) (n : Nat) : (rxRead s n).2.fin = s.fin := by
  unfold rxRead; split <;> rfl

@[simp] theorem rxRead_masked (s : State) (n : Nat) : (rxRead s n).2.masked = s.masked := by
  unfold rxRead; split <;> rfl

@[simp] theorem rxRead_len (s : State) (n : Nat) : (rxRead s n).2.len = s.len := by
  unfold rxRead; split <;> rfl

@[simp] theorem rxRead_key (s : State) (n : Nat) : (rxRead s n).2.key = s.key := by
  unfold rxRead; split <;> rfl

@[simp] theorem rxRead_ctrl (s : State) (n : Nat) : (rxRead s n).2.ctrl = s.ctrl := by
  unfold rxRead; split <;> rfl

@[simp] theorem rxRead_status (s : State) (n : Nat) : (rxRead s n).2.status = s.status := by
  unfold rxRead; split <;> rfl

@[simp] theorem rxRead_buf (s : State) (n : Nat) : (rxRead s n).2.buf = s.buf := by
  unfold rxRead; split <;> rfl

@[simp] theorem rxRead_bufcap (s : State) (n : Nat) : (rxRead s n).2.bufcap = s.bufcap := by
  unfold rxRead; split <;> rfl

@[simp] theorem rxRead_txs (s : State) (n : Nat) : (rxRead s n).2.txs = s.txs := by
  unfold rxRead; split <;> rfl

@[simp] theorem rxRead_txcap (s : State) (n : Nat) : (rxRead s n).2.txcap = s.txcap := by
  unfold rxRead; split <;> rfl

@[simp] theorem rxRead_port (s : State) (n : Nat) : (rxRead s n).2.port = s.port := by
  unfold rxRead; split <;> rfl

@[simp] theorem rxRead_responses (s : State) (n : Nat) : (rxRead s n).2.responses = s.responses := by
  unfold rxRead; split <;> rfl

@[simp] theorem rxRead_draws (s : State) (n : Nat) : (rxRead s n).2.draws = s.draws := by
  unfold rxRead; split <;> rfl

@[simp] theorem txWrite_opc (s : State) (l : List Octet) : (txWrite s l).2.opc = s.opc := rfl

@[simp] theorem txWrite_fin (s : State) (l : List Octet) : (txWrite s l).2.fin = s.fin := rfl

@[simp] theorem txWrite_masked (s : State) (l : List Octet) : (txWrite s l).2.masked = s.masked := rfl

@[simp] theorem txWrite_len (s : State) (l : List Octet) : (txWrite s l).2.len = s.len := rfl

@[simp] theorem txWrite_key (s : State) (l : List Octet) : (txWrite s l).2.key = s.key := rfl

@[simp] theorem txWrite_ctrl (s : State) (l : List Octet) : (txWrite s l).2.ctrl = s.ctrl := rfl

@[simp] theorem txWrite_status (s : State) (l : List Octet) : (txWrite s l).2.status = s.status := rfl

@[simp] theorem txWrite_buf (s : State) (l : List Octet) : (txWrite s l).2.buf = s.buf := rfl

@[simp] theorem txWrite_bufcap (s : State) (l : List Octet) : (txWrite s l).2.bufcap = s.bufcap := rfl

@[simp] theorem txWrite_rxs (s : State) (l : List Octet) : (txWrite s l).2.rxs = s.rxs := rfl

@[simp] theorem txWrite_port (s : State) (l : List Octet) : (txWrite s l).2.port = s.port := rfl

@[simp] theorem txWrite_responses (s : State) (l : List Octet) : (txWrite s l).2.responses = s.responses := rfl

@[simp] theorem txWrite_draws (s : State) (l : List Octet) : (txWrite s l).2.draws = s.draws := rfl

end Sys2Proof.Machine
end

