-- ==== Sys2Proof/Laws/Memory.lean ====
section
/-! SUPPORT. BUF: a read after a write, writes elsewhere, the canonical form, and ranges. -/

namespace Sys2Proof.Machine

@[simp] theorem lookup_write_same (m : Memory) (a : Nat) (v : Octet) : Memory.lookup (Memory.write m a v) a = some v := by
  induction m with
  | nil => simp [Memory.write, Memory.lookup]
  | cons c m ih =>
    unfold Memory.write
    split
    · simp [Memory.lookup]
    · split
      · simp [Memory.lookup]
      · next h => simp [Memory.lookup, Ne.symm h, ih]

theorem lookup_write_other (m : Memory) {a x : Nat} (v : Octet) (h : x ≠ a) :
    Memory.lookup (Memory.write m a v) x = Memory.lookup m x := by
  induction m with
  | nil => simp [Memory.write, Memory.lookup, h.symm]
  | cons c m ih =>
    unfold Memory.write
    split
    · simp [Memory.lookup, h.symm]
    · split
      · next h' => simp [Memory.lookup, h.symm, ← h']
      · simp [Memory.lookup, ih]

/-- A cell of the memory after a write is the written one or one of the cells before. -/
theorem mem_write {m : Memory} {a : Nat} {v : Octet} {c : Host.Cell} (h : c ∈ Memory.write m a v) : c = (a, v) ∨ c ∈ m := by
  induction m with
  | nil => simpa [Memory.write] using h
  | cons d m ih =>
    unfold Memory.write at h
    split at h
    · simpa using h
    · split at h
      · rcases List.mem_cons.1 h with h | h
        · exact .inl h
        · exact .inr (List.mem_cons_of_mem _ h)
      · rcases List.mem_cons.1 h with h | h
        · exact .inr (h ▸ List.mem_cons_self)
        · exact (ih h).imp_right (List.mem_cons_of_mem _)

/-- A write keeps the canonical form. -/
theorem write_wf {m : Memory} (h : Memory.wf m) (a : Nat) (v : Octet) : Memory.wf (Memory.write m a v) := by
  induction m with
  | nil => simp [Memory.write]
  | cons c m ih =>
    obtain ⟨hc, hm⟩ := List.pairwise_cons.1 h
    unfold Memory.write
    split
    · next ha => exact List.pairwise_cons.2 ⟨fun d hd => by
        rcases List.mem_cons.1 hd with rfl | hd
        · exact ha
        · exact ha.trans (hc d hd), h⟩
    · split
      · next ha => exact List.pairwise_cons.2 ⟨fun d hd => by simpa [ha] using hc d hd, hm⟩
      · exact List.pairwise_cons.2 ⟨fun d hd => by
          rcases mem_write hd with rfl | hd
          · simp only; omega
          · exact hc d hd, ih hm⟩

/-- Writing a list keeps the canonical form. -/
theorem writeList_wf {m : Memory} (h : Memory.wf m) (a : Nat) (p : List Octet) : Memory.wf (Memory.writeList m a p) := by
  induction p generalizing m a with
  | nil => exact h
  | cons v p ih => exact ih (write_wf h a v) (a + 1)

/-- A cell after writing a list lies in the written range or was there before. -/
theorem mem_writeList {m : Memory} {a : Nat} {p : List Octet} {c : Host.Cell} (h : c ∈ Memory.writeList m a p) :
    (a ≤ c.1 ∧ c.1 < a + p.length) ∨ c ∈ m := by
  induction p generalizing m a with
  | nil => exact .inr h
  | cons v p ih =>
    rcases ih (m := Memory.write m a v) (a := a + 1) h with h | h
    · exact .inl (by simp only [List.length_cons]; omega)
    · rcases mem_write h with rfl | h
      · exact .inl (by simp)
      · exact .inr h

theorem lookup_writeList_outside (m : Memory) {a x : Nat} (p : List Octet) (h : ¬(a ≤ x ∧ x < a + p.length)) :
    Memory.lookup (Memory.writeList m a p) x = Memory.lookup m x := by
  induction p generalizing m a with
  | nil => rfl
  | cons v p ih =>
    simp only [List.length_cons] at h
    rw [Memory.writeList, ih _ (by omega), lookup_write_other _ _ (by omega)]

theorem lookup_writeList_inside (m : Memory) (a : Nat) (p : List Octet) {i : Nat} (h : i < p.length) :
    Memory.lookup (Memory.writeList m a p) (a + i) = some p[i] := by
  induction p generalizing m a i with
  | nil => simp at h
  | cons v p ih =>
    rw [Memory.writeList]
    cases i with
    | zero => rw [lookup_writeList_outside _ _ (by omega)]; simp
    | succ i => simpa [Nat.add_right_comm, Nat.add_assoc] using ih (Memory.write m a v) (a + 1) (by simpa using h)

/-- A read of BUF looks at the written cells alone. -/
theorem bufRead_congr {s t : State} (h : t.buf = s.buf) (x : Nat) : bufRead t x = bufRead s x := by
  simp [bufRead, h]

theorem bufSlice_congr {s t : State} (h : t.buf = s.buf) (a n : Nat) : bufSlice t a n = bufSlice s a n := by
  induction n generalizing a with
  | zero => rfl
  | succ n ih => simp [bufSlice, bufRead_congr h, ih]

@[simp] theorem bufSlice_getElem (s : State) (a n i : Nat) (h : i < (bufSlice s a n).length) :
    (bufSlice s a n)[i] = bufRead s (a + i) := by
  induction n generalizing a i with
  | zero => simp at h
  | succ n ih =>
    cases i with
    | zero => simp [bufSlice]
    | succ i =>
      simp only [bufSlice, List.getElem_cons_succ]
      rw [ih (a + 1) i (by simpa using h)]
      congr 1; omega

@[simp] theorem freeOctets_length (k a n : Nat) : (freeOctets k a n).length = n := by
  induction n generalizing a with
  | zero => rfl
  | succ n ih => simp [freeOctets, ih]

theorem bufRead_writeList_outside {s t : State} {a : Nat} {p : List Octet} (h : t.buf = Memory.writeList s.buf a p) {x : Nat}
    (hx : ¬(a ≤ x ∧ x < a + p.length)) : bufRead t x = bufRead s x := by
  simp [bufRead, h, lookup_writeList_outside _ _ hx]

theorem bufRead_writeList_inside {s t : State} {a : Nat} {p : List Octet} (h : t.buf = Memory.writeList s.buf a p) {i : Nat}
    (hi : i < p.length) : bufRead t (a + i) = p[i] := by
  simp [bufRead, h, lookup_writeList_inside _ _ _ hi]

/-- A slice that has just been written reads back. -/
theorem bufSlice_writeList {s t : State} {a : Nat} {p : List Octet} (h : t.buf = Memory.writeList s.buf a p) :
    bufSlice t a p.length = p := by
  refine List.ext_getElem (by simp) fun i h1 h2 => ?_
  rw [bufSlice_getElem, bufRead_writeList_inside h h2]

end Sys2Proof.Machine
end

