-- ==== Sys2Proof/Laws/Operands.lean ====
section
/-! SUPPORT. The pure functions of the three components, case by case. -/

namespace Sys2Proof.Machine

/-- A leading octet with no reserved bit set unpacks (R130). -/
theorem unpackHeader_legal {b : Octet} (h : b &&& 0x70 = 0) : unpackHeader b = some (b.extractLsb' 0 7, b.getLsbD 7) := by
  unfold unpackHeader; exact if_neg (not_not.2 h)

/-- A leading octet with a reserved bit set does not (R130). -/
theorem unpackHeader_reserved {b : Octet} (h : b &&& 0x70 ≠ 0) : unpackHeader b = none := by
  unfold unpackHeader; exact if_pos h

/-- Inline tier (R152). -/
theorem packLength_inline {len : U64} (m : Bool) (h : len.toNat ≤ 125) : packLength len m = [w1Octet m (len.setWidth 7)] := by
  simp [packLength, tierOf, h]

/-- 16-bit tier (R152). -/
theorem packLength_ext16 {len : U64} (m : Bool) (h : 125 < len.toNat) (h' : len.toNat ≤ 65535) :
    packLength len m = w1Octet m 126 :: bytes16 (len.setWidth 16) := by
  simp [packLength, tierOf, h', Nat.not_le.2 h]

/-- 64-bit tier (R152). -/
theorem packLength_ext64 {len : U64} (m : Bool) (h : 65535 < len.toNat) :
    packLength len m = w1Octet m 127 :: bytes64 len := by
  have h1 : ¬len.toNat ≤ 125 := by omega
  simp [packLength, tierOf, h1, Nat.not_le.2 h]

@[simp] theorem w1Octet_flag (m : Bool) (c : BitVec 7) : (w1Octet m c)[7] = m := flagOctet_flag m c

@[simp] theorem w1Octet_code (m : Bool) (c : BitVec 7) : (w1Octet m c).extractLsb' 0 7 = c := flagOctet_low m c

@[simp] theorem unpackLen7_w1Octet (m : Bool) (c : BitVec 7) : unpackLen7 (w1Octet m c) = (m, c) := by
  simp [unpackLen7]

@[simp] theorem maskFrom_length (k : Key) (i : Nat) (p : List Octet) : (maskFrom k i p).length = p.length := by
  induction p generalizing i with
  | nil => rfl
  | cons b p ih => simp [maskFrom, ih]

@[simp] theorem maskOctets_length (p : List Octet) (k : Key) : (maskOctets p k).length = p.length := maskFrom_length k 0 p

@[simp] theorem keyOctets_length (k : Key) : (keyOctets k).length = 4 := rfl

@[simp] theorem keyOf_keyOctets (k : Key) (rest : List Octet) : keyOf (keyOctets k ++ rest) = k := rfl

end Sys2Proof.Machine
end

