-- ==== Sys2Proof/Laws/Ops.lean ====
section
/-! SUPPORT. What each shared operation can do, said once: the stream primitives, sending, raising, the endings, and the frame
that every operation but RDREG and RESET shares. -/

namespace Sys2Proof.Machine

/-! ### Streams -/

/-- `RxRead(n)` with enough octets (R68). -/
theorem rxRead_enough {s : State} {n : Nat} (h : n ≤ s.rxs.length) :
    rxRead s n = (some (s.rxs.take n), { s with rxs := s.rxs.drop n }) := by
  simp [rxRead, h]

/-- `RxRead(n)` with too few octets (R68). -/
theorem rxRead_short {s : State} {n : Nat} (h : s.rxs.length < n) : rxRead s n = (none, { s with rxs := [] }) := by
  simp [rxRead, Nat.not_le.2 h]

/-- `RxRead` answers one of two ways. -/
theorem rxRead_cases (s : State) (n : Nat) :
    (n ≤ s.rxs.length ∧ rxRead s n = (some (s.rxs.take n), { s with rxs := s.rxs.drop n })) ∨
    (s.rxs.length < n ∧ rxRead s n = (none, { s with rxs := [] })) := by
  rcases Nat.lt_or_ge s.rxs.length n with h | h
  · exact .inr ⟨h, rxRead_short h⟩
  · exact .inl ⟨h, rxRead_enough h⟩

theorem accepted_le (c : Capacity) (n : Nat) : accepted c n ≤ n := by
  cases c <;> simp [accepted]

theorem hasRoom_unlimited (n : Nat) : hasRoom .unlimited n := rfl

theorem hasRoom_octets (c n : Nat) : hasRoom (.octets c) n ↔ n ≤ c := by
  change min c n = n ↔ n ≤ c; omega

/-- A send with room: all octets appended in one write (R69, R70). -/
theorem send_room {s : State} {l : List Octet} (h : hasRoom s.txcap l.length) :
    send s l = ({ s with txs := s.txs ++ l, txcap := capacityAfter s.txcap l.length }, .ok) := by
  unfold hasRoom at h
  simp [send, txWrite, h]

/-- A send that falls short: the accepted prefix is on the wire, and the capacity is used up (R69). -/
theorem send_short {s : State} {l : List Octet} {c : Nat} (hc : s.txcap = .octets c) (h : c < l.length) :
    send s l = ({ s with txs := s.txs ++ l.take c, txcap := .octets 0 }, .error .txShort) := by
  have h1 : min c l.length = c := by omega
  have h2 : (c == l.length) = false := by simp; omega
  simp [send, txWrite, hc, accepted, capacityAfter, h1, h2]

/-- A send does one of two things. -/
theorem send_cases (s : State) (l : List Octet) :
    (hasRoom s.txcap l.length ∧
      send s l = ({ s with txs := s.txs ++ l, txcap := capacityAfter s.txcap l.length }, .ok)) ∨
    (∃ c, s.txcap = .octets c ∧ c < l.length ∧
      send s l = ({ s with txs := s.txs ++ l.take c, txcap := .octets 0 }, .error .txShort)) := by
  cases hc : s.txcap with
  | unlimited => exact .inl ⟨rfl, by rw [← hc]; exact send_room (by rw [hc]; rfl)⟩
  | octets c =>
    rcases Nat.lt_or_ge c l.length with h | h
    · exact .inr ⟨c, rfl, h, send_short hc h⟩
    · exact .inl ⟨(hasRoom_octets c _).2 h, by rw [← hc]; exact send_room (by rw [hc]; exact (hasRoom_octets c _).2 h)⟩

/-! ### Raising an error -/

theorem latch_of_noError {s : State} (h : noError s) (e : ErrorCode) :
    latch s e = { s with status := withErr s.status (errorCode e) } := by
  unfold noError at h; simp [latch, h]

theorem latch_of_errorState {s : State} (h : errorState s) (e : ErrorCode) : latch s e = s := by
  unfold latch; exact if_neg h

/-- An error raised while none is latched (R278). -/
theorem raise_of_noError {s : State} (h : noError s) (e : ErrorCode) :
    raise s e = { s with status := withErr s.status (errorCode e), responses := s.responses ++ [.err (errorCode e)] } := by
  simp [raise, latch_of_noError h, respond]

/-- An error raised while none is latched, in the statements' words. -/
theorem raise_failedWith {s : State} (h : noError s) (e : ErrorCode) : raise s e = failedWith s (errorCode e) :=
  raise_of_noError h e

/-- The first error wins (R278 (b)). -/
theorem raise_of_errorState {s : State} (h : errorState s) (e : ErrorCode) :
    raise s e = respond s (.err (errorCode e)) := by
  simp [raise, latch_of_errorState h]

/-! ### The frame of an operation -/

@[simp] theorem operate_of_noError {s : State} (h : noError s) (body : State → State × Ending) :
    operate s body = .next (conclude (body s)) := by
  unfold noError at h; simp [operate, h]

/-- A latched error refuses the operation with no effect (R279). -/
theorem operate_of_errorState {s : State} (h : errorState s) (body : State → State × Ending) :
    operate s body = .next (respond s (.err (errOf s.status))) := by
  unfold operate; rw [if_neg h]; rfl

/-- Everything an operation can do. -/
theorem operate_cases {s t : State} {body : State → State × Ending} (h : operate s body = .next t) :
    (noError s ∧ t = conclude (body s)) ∨ (errorState s ∧ t = respond s (.err (errOf s.status))) := by
  by_cases he : errOf s.status = 0
  · exact .inl ⟨he, by simpa [operate_of_noError he] using h.symm⟩
  · exact .inr ⟨he, by simpa [operate_of_errorState he] using h.symm⟩

@[simp] theorem conclude_ok (s : State) : conclude (s, .ok) = respond s .ok := rfl
@[simp] theorem conclude_value (s : State) (v : U64) : conclude (s, .value v) = respond s (.okValue v) := rfl
@[simp] theorem conclude_error (s : State) (e : ErrorCode) : conclude (s, .error e) = raise s e := rfl

/-- Every operation ends in exactly one response more. -/
theorem conclude_responses (r : State × Ending) : ∃ a, (conclude r).responses = r.1.responses ++ [a] := by
  obtain ⟨s, e⟩ := r
  cases e <;> exact ⟨_, by simp [raise]; rfl⟩

end Sys2Proof.Machine
end

