-- ==== Sys2Proof/Laws/Instructions.lean ====
section
/-! SUPPORT. The body of each operation, path by path: which checks it passes and what state and ending it leaves. -/

namespace Sys2Proof.Machine

/-! ### The RX stream, as a list that begins with what is read -/

/-- `RxRead` of exactly the octets at the front. -/
theorem rxRead_front (s : State) (p rest : List Octet) (h : s.rxs = p ++ rest) :
    rxRead s p.length = (some p, { s with rxs := rest }) := by
  rw [rxRead_enough (by simp [h])]; simp [h]

/-- `RxRead(1)` takes the first octet. -/
theorem rxRead_one {s : State} {b : Octet} {rest : List Octet} (h : s.rxs = b :: rest) :
    rxRead s 1 = (some [b], { s with rxs := rest }) :=
  rxRead_front s [b] rest h

/-- `RxRead` of at least one octet from an ended stream. -/
theorem rxRead_ended {s : State} (h : s.rxs = []) {n : Nat} (hn : 0 < n) : rxRead s n = (none, s) := by
  have e : ({ s with rxs := [] } : State) = s := by cases s; simp_all
  rw [rxRead_short (by simp [h, hn]), e]

/-! ### Header codec -/

theorem dechdrBody_ended {s : State} (h : s.rxs = []) : dechdrBody s = (s, .error .rxShort) := by
  simp [dechdrBody, rxRead_ended h]

theorem dechdrBody_reserved {s : State} {b : Octet} {rest : List Octet} (h : s.rxs = b :: rest) (hb : b &&& 0x70 ≠ 0) :
    dechdrBody s = ({ s with rxs := rest }, .error .reservedBitsSet) := by
  simp only [dechdrBody, rxRead_one h, octetAt_zero, unpackHeader_reserved hb]

theorem dechdrBody_decodes {s : State} {b : Octet} {rest : List Octet} (h : s.rxs = b :: rest) (hb : b &&& 0x70 = 0) :
    dechdrBody s = (setHeader { s with rxs := rest } (b.extractLsb' 0 7) (b.getLsbD 7), .ok) := by
  simp only [dechdrBody, rxRead_one h, octetAt_zero, unpackHeader_legal hb]

/-- Everything `DECHDR` can do. -/
theorem dechdrBody_cases (s : State) :
    (s.rxs = [] ∧ dechdrBody s = (s, .error .rxShort)) ∨
    (∃ b rest, s.rxs = b :: rest ∧ b &&& 0x70 ≠ 0 ∧ dechdrBody s = ({ s with rxs := rest }, .error .reservedBitsSet)) ∨
    (∃ b rest, s.rxs = b :: rest ∧ b &&& 0x70 = 0 ∧
      dechdrBody s = (setHeader { s with rxs := rest } (b.extractLsb' 0 7) (b.getLsbD 7), .ok)) := by
  cases h : s.rxs with
  | nil => exact .inl ⟨rfl, dechdrBody_ended h⟩
  | cons b rest =>
    by_cases hb : b &&& 0x70 = 0
    · exact .inr (.inr ⟨b, rest, rfl, hb, dechdrBody_decodes h hb⟩)
    · exact .inr (.inl ⟨b, rest, rfl, hb, dechdrBody_reserved h hb⟩)

/-! ### Payload length transport -/

/-- Reading the extension octets at the front. -/
theorem readExtension_front (s : State) (m : Bool) (value : List Octet → U64) (e rest : List Octet) (h : s.rxs = e ++ rest) :
    readExtension s m e.length value = (setLength { s with rxs := rest } (value e) m, .ok) := by
  simp only [readExtension, rxRead_front s e rest h]

/-- An extension cut short. -/
theorem readExtension_short {s : State} (m : Bool) {x : Nat} (value : List Octet → U64) (h : s.rxs.length < x) :
    readExtension s m x value = ({ s with rxs := [] }, .error .rxShort) := by
  simp only [readExtension, rxRead_short h]

theorem decodeLength_maskRequired (s : State) (c : BitVec 7) (h : rxreq s.ctrl = true) :
    decodeLength s false c = (s, .error .maskBitRequired) := by
  simp [decodeLength, h]

theorem decodeLength_inline (s : State) {m : Bool} {c : BitVec 7} (hm : m = true ∨ rxreq s.ctrl = false) (h1 : c ≠ 126)
    (h2 : c ≠ 127) : decodeLength s m c = (setLength s (c.setWidth 64) m, .ok) := by
  have : ¬(m = false ∧ rxreq s.ctrl = true) := by rcases hm with h | h <;> simp [h]
  rw [decodeLength, if_neg this, if_neg h1, if_neg h2]

theorem decodeLength_ext16 (s : State) {m : Bool} (hm : m = true ∨ rxreq s.ctrl = false) :
    decodeLength s m 126 = readExtension s m 2 fun e => (u16At e 0).setWidth 64 := by
  have : ¬(m = false ∧ rxreq s.ctrl = true) := by rcases hm with h | h <;> simp [h]
  rw [decodeLength, if_neg this, if_pos rfl]

theorem decodeLength_ext64 (s : State) {m : Bool} (hm : m = true ∨ rxreq s.ctrl = false) :
    decodeLength s m 127 = readExtension s m 8 fun e => u64At e 0 := by
  have : ¬(m = false ∧ rxreq s.ctrl = true) := by rcases hm with h | h <;> simp [h]
  rw [decodeLength, if_neg this, if_neg (by decide), if_pos rfl]

theorem declenBody_ended {s : State} (h : s.rxs = []) : declenBody s = (s, .error .rxShort) := by
  simp [declenBody, rxRead_ended h]

theorem declenBody_octet {s : State} {b : Octet} {rest : List Octet} (h : s.rxs = b :: rest) :
    declenBody s = decodeLength { s with rxs := rest } (unpackLen7 b).1 (unpackLen7 b).2 := by
  simp only [declenBody, rxRead_one h, octetAt_zero]

/-- Everything `DECLEN` can do, as to the state: it fails with RXS alone changed (to a suffix, or to nothing on a short stream),
or it writes the length registers. -/
theorem declenBody_cases (s : State) :
    (∃ e rest, (declenBody s = ({ s with rxs := rest }, .error e)) ∧ (∃ p, s.rxs = p ++ rest) ∧
      (e = .rxShort ∨ e = .maskBitRequired)) ∨
    (∃ n m rest, declenBody s = (setLength { s with rxs := rest } n m, .ok) ∧ ∃ p, s.rxs = p ++ rest) := by
  cases h : s.rxs with
  | nil => exact .inl ⟨_, [], by rw [declenBody_ended h]; cases s; simp_all, ⟨[], rfl⟩, .inl rfl⟩
  | cons b rest =>
    rw [declenBody_octet h]
    have key : ∀ (m : Bool) (x : Nat) (value : List Octet → U64),
        (∃ e r, readExtension { s with rxs := rest } m x value = ({ s with rxs := r }, .error e) ∧ (∃ p, b :: rest = p ++ r) ∧
          (e = .rxShort ∨ e = .maskBitRequired)) ∨
        (∃ n m' r, readExtension { s with rxs := rest } m x value = (setLength { s with rxs := r } n m', .ok) ∧
          ∃ p, b :: rest = p ++ r) := by
      intro m x value
      rcases Nat.lt_or_ge rest.length x with hx | hx
      · exact .inl ⟨_, [], readExtension_short m value hx, ⟨b :: rest, by simp⟩, .inl rfl⟩
      · refine .inr ⟨value (rest.take x), m, rest.drop x, ?_, ⟨b :: rest.take x, by simp⟩⟩
        have := readExtension_front { s with rxs := rest } m value (rest.take x) (rest.drop x) (by simp)
        simpa [Nat.min_eq_left hx] using this
    unfold decodeLength
    split
    · exact .inl ⟨_, rest, rfl, ⟨[b], rfl⟩, .inr rfl⟩
    · split
      · exact key _ _ _
      · split
        · exact key _ _ _
        · exact .inr ⟨_, _, rest, rfl, ⟨[b], rfl⟩⟩

/-! ### Reaching the body of an instruction through exec -/

/-- An error raised by a body: the state the body leaves, with the code latched and answered. -/
theorem conclude_failed {s : State} (h : noError s) (e : ErrorCode) : conclude (s, .error e) = failedWith s (errorCode e) :=
  raise_failedWith h e

/-- The octets of a `TxWrite` that is refused for want of any room leave the state alone. -/
theorem send_noRoom {s : State} {l : List Octet} (hc : s.txcap = .octets 0) (h : 0 < l.length) :
    send s l = (s, .error .txShort) := by
  have e : ({ s with txs := s.txs ++ l.take 0, txcap := .octets 0 } : State) = s := by cases s; simp_all
  rw [send_short hc h, e]

end Sys2Proof.Machine
end

