-- ==== Sys2Proof/Laws/HostSeq.lean ====
section
/-! SUPPORT. The host sequences: how a sequence goes on or stops, and everything that copying a payload in can do. -/

namespace Sys2Proof.Machine

@[simp] theorem andThen_ok {α β : Type} (s : State) (a : α) (k : α → State → HostOutcome β) :
    andThen (.next (s, .ok a)) k = k a s := rfl

@[simp] theorem andThen_error {α β : Type} (s : State) (e : HostError) (k : α → State → HostOutcome β) :
    andThen (.next (s, .error e)) k = .next (s, .error e) := rfl

@[simp] theorem issueIf_true (i : Instr) (s : State) : issueIf true i s = issue i s := rfl
@[simp] theorem issueIf_false (i : Instr) (s : State) : issueIf false i s = .next (s, .ok 0) := rfl

/-- The host reads the response appended last. -/
@[simp] theorem answer_respond (s : State) (r : Response) : answer (respond s r) =
    match r with
    | .err c => .error (.block c)
    | .okValue v => .ok v
    | .ok => .ok 0 := by
  unfold answer respond; rw [List.getLast?_append_of_ne_nil _ (by simp)]; cases r <;> rfl

/-- The host reads an error raised while none was latched. -/
@[simp] theorem answer_failedWith (s : State) (c : BitVec 4) : answer (failedWith s c) = .error (.block c) :=
  answer_respond { s with status := withErr s.status c } (.err c)

/-- An operation that succeeds is read as its value. -/
theorem issue_next {i : Instr} {s t : State} (h : exec i s = .next t) : issue i s = .next (t, answer t) := by
  rw [issue, h]; rfl

/-- A number below 2^64 is the operand of a `WRBUF` command. -/
theorem issueWrbuf_eq_issue {a : Nat} (h : a < 2 ^ 64) (v : Octet) (s : State) :
    issueWrbuf a v s = issue (.wrbuf (BitVec.ofNat 64 a) v) s := by
  have e : (BitVec.ofNat 64 a).toNat = a := by simpa using h
  simp only [issueWrbuf, issue, exec, execWrbuf, e]

/-- `WRBUF` inside the buffer. -/
theorem issueWrbuf_inside {s : State} (h : noError s) {a : Nat} (v : Octet) (ha : a < s.bufcap) :
    issueWrbuf a v s = .next (respond (setBuf s a [v]) .ok, .ok 0) := by
  have hr : inRange s a 1 := by unfold inRange; omega
  simp only [issueWrbuf, operate_of_noError h, wrbufBody, if_pos hr, conclude_ok, collect, answer_respond]

/-- `WRBUF` outside the buffer. -/
theorem issueWrbuf_outside {s : State} (h : noError s) {a : Nat} (v : Octet) (ha : s.bufcap ≤ a) :
    issueWrbuf a v s = .next (failedWith s 6, .error (.block 6)) := by
  have hr : ¬inRange s a 1 := by unfold inRange; omega
  simp only [issueWrbuf, operate_of_noError h, wrbufBody, if_neg hr, conclude_failed h, collect, answer_failedWith, errorCode]

/-- A payload that fits is copied in. -/
theorem writePayload_inside {s : State} (h : noError s) {a : Nat} {l : List Octet} (ha : a + l.length ≤ s.bufcap) :
    writePayload a l s = .next ({ s with buf := Memory.writeList s.buf a l,
                                         responses := s.responses ++ List.replicate l.length .ok }, .ok 0) := by
  induction l generalizing a s with
  | nil => simp [writePayload, finish, Memory.writeList]
  | cons v l ih =>
    simp only [List.length_cons] at ha
    have h' : noError (respond (setBuf s a [v]) .ok) := h
    rw [writePayload, issueWrbuf_inside h v (by omega), andThen_ok, ih h' (by simp; omega)]
    simp [Memory.writeList, List.replicate_succ, setBuf]

/-- A payload that does not fit stops at its first octet outside the buffer, with the octets before it copied in. -/
theorem writePayload_outside {s : State} (h : noError s) {a : Nat} {l : List Octet} (hl : l ≠ []) (ha : s.bufcap < a + l.length) :
    writePayload a l s = .next (failedWith
      { s with buf := Memory.writeList s.buf a (l.take (s.bufcap - a)),
               responses := s.responses ++ List.replicate (l.take (s.bufcap - a)).length .ok } 6, .error (.block 6)) := by
  induction l generalizing a s with
  | nil => exact absurd rfl hl
  | cons v l ih =>
    rcases Nat.lt_or_ge a s.bufcap with hs | hs
    · simp only [List.length_cons] at ha
      have h' : noError (respond (setBuf s a [v]) .ok) := h
      have hn : l ≠ [] := by rintro rfl; simp at ha; omega
      obtain ⟨n, e⟩ : ∃ n, s.bufcap - a = n + 1 := ⟨s.bufcap - a - 1, by omega⟩
      have e' : s.bufcap - (a + 1) = n := by omega
      rw [writePayload, issueWrbuf_inside h v hs, andThen_ok, ih h' hn (by simp; omega)]
      simp [e, e', Memory.writeList, List.replicate_succ, setBuf]
    · rw [writePayload, issueWrbuf_outside h v hs, andThen_error]
      simp [Nat.sub_eq_zero_of_le hs, Memory.writeList]

end Sys2Proof.Machine
end

