-- ==== Sys2Proof/Laws/PerInstr.lean ====
section
/-! SUPPORT. Statements made once per instruction, about the instruction as syntax. -/

namespace Sys2Proof.Laws

/-- The encoding of a well-formed instruction is a word of its own row of spec/opcode_table.json: its first octet matches the
row's match under the row's mask, and it has as many octets as the row. -/
def RowMatch.Statement (i : Instr) : Prop :=
  WellFormed i = true →
    octetAt (encode i) 0 &&& (rowOf i).mask = (rowOf i).want ∧ (encode i).length = (rowOf i).octets ∧ (rowOf i).space = i.space

theorem RowMatch.dechdr : RowMatch.Statement (.dechdr) :=
  fun _ => ⟨rfl, rfl, rfl⟩

theorem RowMatch.enchdr (opc : BitVec 7) (fin : Bool) : RowMatch.Statement (.enchdr opc fin) :=
  fun _ => ⟨(by decide : (0x02 : Octet) &&& 0xFF = 0x02), rfl, rfl⟩

theorem RowMatch.declen : RowMatch.Statement (.declen) :=
  fun _ => ⟨rfl, rfl, rfl⟩

theorem RowMatch.enclen (rsv : BitVec 7) (m : Bool) (len : U64) : RowMatch.Statement (.enclen rsv m len) :=
  fun _ => ⟨(by decide : (0x04 : Octet) &&& 0xFF = 0x04), rfl, rfl⟩

theorem RowMatch.ldkey : RowMatch.Statement (.ldkey) :=
  fun _ => ⟨rfl, rfl, rfl⟩

theorem RowMatch.setkey (k0 k1 k2 k3 : Octet) : RowMatch.Statement (.setkey k0 k1 k2 k3) :=
  fun _ => ⟨(by decide : (0x06 : Octet) &&& 0xFF = 0x06), rfl, rfl⟩

theorem RowMatch.stkey : RowMatch.Statement (.stkey) :=
  fun _ => ⟨rfl, rfl, rfl⟩

theorem RowMatch.applymask (a n : U64) : RowMatch.Statement (.applymask a n) :=
  fun _ => ⟨(by decide : (0x08 : Octet) &&& 0xFF = 0x08), rfl, rfl⟩

theorem RowMatch.ldbuf (a n : U64) : RowMatch.Statement (.ldbuf a n) :=
  fun _ => ⟨(by decide : (0x09 : Octet) &&& 0xFF = 0x09), rfl, rfl⟩

theorem RowMatch.stbuf (a n : U64) : RowMatch.Statement (.stbuf a n) :=
  fun _ => ⟨(by decide : (0x0A : Octet) &&& 0xFF = 0x0A), rfl, rfl⟩

theorem RowMatch.wrbuf (a : U64) (v : Octet) : RowMatch.Statement (.wrbuf a v) :=
  fun _ => ⟨(by decide : (0x0B : Octet) &&& 0xFF = 0x0B), rfl, rfl⟩

theorem RowMatch.rdbuf (a : U64) : RowMatch.Statement (.rdbuf a) :=
  fun _ => ⟨(by decide : (0x0C : Octet) &&& 0xFF = 0x0C), rfl, rfl⟩

theorem RowMatch.rdreg (r : Octet) : RowMatch.Statement (.rdreg r) :=
  fun _ => ⟨(by decide : (0x0D : Octet) &&& 0xFF = 0x0D), rfl, rfl⟩

theorem RowMatch.wrreg (r v : Octet) : RowMatch.Statement (.wrreg r v) :=
  fun _ => ⟨(by decide : (0x0E : Octet) &&& 0xFF = 0x0E), rfl, rfl⟩

theorem RowMatch.reset : RowMatch.Statement (.reset) :=
  fun _ => ⟨rfl, rfl, rfl⟩

theorem RowMatch.reserved00 : RowMatch.Statement (.reserved00) :=
  fun _ => ⟨rfl, rfl, rfl⟩

theorem RowMatch.reserved10 (cc : Octet) : RowMatch.Statement (.reserved10 cc) :=
  fun h => ⟨eq_of_beq h, rfl, rfl⟩

theorem RowMatch.reserved20 (cc : Octet) : RowMatch.Statement (.reserved20 cc) :=
  fun h => ⟨eq_of_beq h, rfl, rfl⟩

theorem RowMatch.reserved40 (cc : Octet) : RowMatch.Statement (.reserved40 cc) :=
  fun h => ⟨eq_of_beq h, rfl, rfl⟩

theorem RowMatch.reserved80 (cc : Octet) : RowMatch.Statement (.reserved80 cc) :=
  fun h => ⟨eq_of_beq h, rfl, rfl⟩

theorem RowMatch.w0Continuation (fin : Bool) : RowMatch.Statement (.w0Continuation fin) :=
  fun _ => ⟨by cases fin <;> rfl, rfl, rfl⟩

theorem RowMatch.w0Text (fin : Bool) : RowMatch.Statement (.w0Text fin) :=
  fun _ => ⟨by cases fin <;> rfl, rfl, rfl⟩

theorem RowMatch.w0Binary (fin : Bool) : RowMatch.Statement (.w0Binary fin) :=
  fun _ => ⟨by cases fin <;> rfl, rfl, rfl⟩

theorem RowMatch.w0Unknown3 (fin : Bool) : RowMatch.Statement (.w0Unknown3 fin) :=
  fun _ => ⟨by cases fin <;> rfl, rfl, rfl⟩

theorem RowMatch.w0Unknown4 (fin : Bool) : RowMatch.Statement (.w0Unknown4 fin) :=
  fun _ => ⟨by cases fin <;> rfl, rfl, rfl⟩

theorem RowMatch.w0Unknown5 (fin : Bool) : RowMatch.Statement (.w0Unknown5 fin) :=
  fun _ => ⟨by cases fin <;> rfl, rfl, rfl⟩

theorem RowMatch.w0Unknown6 (fin : Bool) : RowMatch.Statement (.w0Unknown6 fin) :=
  fun _ => ⟨by cases fin <;> rfl, rfl, rfl⟩

theorem RowMatch.w0Unknown7 (fin : Bool) : RowMatch.Statement (.w0Unknown7 fin) :=
  fun _ => ⟨by cases fin <;> rfl, rfl, rfl⟩

theorem RowMatch.w0Close (fin : Bool) : RowMatch.Statement (.w0Close fin) :=
  fun _ => ⟨by cases fin <;> rfl, rfl, rfl⟩

theorem RowMatch.w0Ping (fin : Bool) : RowMatch.Statement (.w0Ping fin) :=
  fun _ => ⟨by cases fin <;> rfl, rfl, rfl⟩

theorem RowMatch.w0Pong (fin : Bool) : RowMatch.Statement (.w0Pong fin) :=
  fun _ => ⟨by cases fin <;> rfl, rfl, rfl⟩

theorem RowMatch.w0UnknownB (fin : Bool) : RowMatch.Statement (.w0UnknownB fin) :=
  fun _ => ⟨by cases fin <;> rfl, rfl, rfl⟩

theorem RowMatch.w0UnknownC (fin : Bool) : RowMatch.Statement (.w0UnknownC fin) :=
  fun _ => ⟨by cases fin <;> rfl, rfl, rfl⟩

theorem RowMatch.w0UnknownD (fin : Bool) : RowMatch.Statement (.w0UnknownD fin) :=
  fun _ => ⟨by cases fin <;> rfl, rfl, rfl⟩

theorem RowMatch.w0UnknownE (fin : Bool) : RowMatch.Statement (.w0UnknownE fin) :=
  fun _ => ⟨by cases fin <;> rfl, rfl, rfl⟩

theorem RowMatch.w0UnknownF (fin : Bool) : RowMatch.Statement (.w0UnknownF fin) :=
  fun _ => ⟨by cases fin <;> rfl, rfl, rfl⟩

theorem RowMatch.w0RsvSet40 (b : Octet) : RowMatch.Statement (.w0RsvSet40 b) :=
  fun h => ⟨eq_of_beq h, rfl, rfl⟩

theorem RowMatch.w0RsvSet20 (b : Octet) : RowMatch.Statement (.w0RsvSet20 b) :=
  fun h => ⟨eq_of_beq h, rfl, rfl⟩

theorem RowMatch.w0RsvSet10 (b : Octet) : RowMatch.Statement (.w0RsvSet10 b) :=
  fun h => ⟨eq_of_beq h, rfl, rfl⟩

/-- A mask without bit 7 sees the length code alone: the mask flag is free in the inline rows. -/
theorem w1Octet_and (m : Bool) (c k : BitVec 7) : w1Octet m c &&& flagOctet false k = flagOctet false (c &&& k) := by
  ext i hi; cases m <;> simp [w1Octet, flagOctet]; interval_cases i <;> simp

theorem RowMatch.w1Inline00 (m : Bool) (c : BitVec 7) : RowMatch.Statement (.w1Inline00 m c) :=
  fun h => ⟨(w1Octet_and m c 0x40).trans (congrArg (flagOctet false) (eq_of_beq h)), rfl, rfl⟩

theorem RowMatch.w1Inline40 (m : Bool) (c : BitVec 7) : RowMatch.Statement (.w1Inline40 m c) :=
  fun h => ⟨(w1Octet_and m c 0x60).trans (congrArg (flagOctet false) (eq_of_beq h)), rfl, rfl⟩

theorem RowMatch.w1Inline60 (m : Bool) (c : BitVec 7) : RowMatch.Statement (.w1Inline60 m c) :=
  fun h => ⟨(w1Octet_and m c 0x70).trans (congrArg (flagOctet false) (eq_of_beq h)), rfl, rfl⟩

theorem RowMatch.w1Inline70 (m : Bool) (c : BitVec 7) : RowMatch.Statement (.w1Inline70 m c) :=
  fun h => ⟨(w1Octet_and m c 0x78).trans (congrArg (flagOctet false) (eq_of_beq h)), rfl, rfl⟩

theorem RowMatch.w1Inline78 (m : Bool) (c : BitVec 7) : RowMatch.Statement (.w1Inline78 m c) :=
  fun h => ⟨(w1Octet_and m c 0x7C).trans (congrArg (flagOctet false) (eq_of_beq h)), rfl, rfl⟩

theorem RowMatch.w1Inline7C (m : Bool) (c : BitVec 7) : RowMatch.Statement (.w1Inline7C m c) :=
  fun h => ⟨(w1Octet_and m c 0x7E).trans (congrArg (flagOctet false) (eq_of_beq h)), rfl, rfl⟩

theorem RowMatch.w1Ext16 (m : Bool) (len : BitVec 16) : RowMatch.Statement (.w1Ext16 m len) :=
  fun _ => ⟨(by cases m <;> decide : w1Octet m 126 &&& 0x7F = 0x7E), rfl, rfl⟩

theorem RowMatch.w1Ext64 (m : Bool) (len : U64) : RowMatch.Statement (.w1Ext64 m len) :=
  fun _ => ⟨(by cases m <;> decide : w1Octet m 127 &&& 0x7F = 0x7F), rfl, rfl⟩

end Sys2Proof.Laws
end

