-- ==== Sys2Proof/Machine/Assembly.lean ====
section
/-! DEFINITION. The assembler syntax (spec/30_encoding.md R109, R111): writing an operation as a line (the mnemonic in upper case,
then the operands in the abstract order of R101, separated by commas, in decimal), and reading a line (numbers decimal or `0x`
hexadecimal, registers by name or number, `;` comments, the pseudo-operations MASK and UNMASK). -/

namespace Sys2Proof.Machine

/-- A one-bit operand. -/
def bitText (b : Bool) : String := if b then "1" else "0"

/-- One line: the mnemonic and its operands. -/
def asmLine (mnemonic : String) (operands : List String) : String :=
  if operands.isEmpty then mnemonic else mnemonic ++ " " ++ ", ".intercalate operands

/-- The names that stand for register numbers (R31, R109). -/
def registerName (r : Octet) : String :=
  match r.toNat with
  | 0 => "CTRL"
  | 1 => "STATUS"
  | 2 => "HDR"
  | 3 => "LENF"
  | 4 => "LEN"
  | 5 => "KEY"
  | n => toString n

/-- The assembly line of an operation (R109), and `none` for what has no abstract syntax: an `ENCLEN` with reserved operand bits
(binary form only, R154), a reserved command code, a wire row. -/
def assembly : Instr → Option String
  | .dechdr => some (asmLine "DECHDR" [])
  | .enchdr opc fin => some (asmLine "ENCHDR" [toString opc.toNat, bitText fin])
  | .declen => some (asmLine "DECLEN" [])
  | .enclen rsv m len => if rsv = 0 then some (asmLine "ENCLEN" [bitText m, toString len.toNat]) else none
  | .ldkey => some (asmLine "LDKEY" [])
  | .setkey k0 k1 k2 k3 => some (asmLine "SETKEY" ([k0, k1, k2, k3].map fun k => toString k.toNat))
  | .stkey => some (asmLine "STKEY" [])
  | .applymask a n => some (asmLine "APPLYMASK" [toString a.toNat, toString n.toNat])
  | .ldbuf a n => some (asmLine "LDBUF" [toString a.toNat, toString n.toNat])
  | .stbuf a n => some (asmLine "STBUF" [toString a.toNat, toString n.toNat])
  | .wrbuf a v => some (asmLine "WRBUF" [toString a.toNat, toString v.toNat])
  | .rdbuf a => some (asmLine "RDBUF" [toString a.toNat])
  | .rdreg r => some (asmLine "RDREG" [registerName r])
  | .wrreg r v => some (asmLine "WRREG" [registerName r, toString v.toNat])
  | .reset => some (asmLine "RESET" [])
  | .reserved00 | .reserved10 _ | .reserved20 _ | .reserved40 _ | .reserved80 _ => none
  | .w0Continuation _ | .w0Text _ | .w0Binary _ | .w0Close _ | .w0Ping _ | .w0Pong _ => none
  | .w0Unknown3 _ | .w0Unknown4 _ | .w0Unknown5 _ | .w0Unknown6 _ | .w0Unknown7 _ => none
  | .w0UnknownB _ | .w0UnknownC _ | .w0UnknownD _ | .w0UnknownE _ | .w0UnknownF _ => none
  | .w0RsvSet40 _ | .w0RsvSet20 _ | .w0RsvSet10 _ => none
  | .w1Inline00 _ _ | .w1Inline40 _ _ | .w1Inline60 _ _ | .w1Inline70 _ _ | .w1Inline78 _ _ | .w1Inline7C _ _ => none
  | .w1Ext16 _ _ | .w1Ext64 _ _ => none

/-! ### Reading a line -/

/-- Blanks between the parts of a line. -/
def blank (c : Char) : Bool := c = ' ' || c = '\t'

/-- A text without the blanks before and after it. -/
def trimmed (l : List Char) : List Char := ((l.dropWhile blank).reverse.dropWhile blank).reverse

/-- A `;` starts a comment (R109). -/
def withoutComment (l : List Char) : List Char := l.takeWhile (· ≠ ';')

/-- The texts between the commas. -/
def splitCommas : List Char → List (List Char)
  | [] => [[]]
  | c :: l =>
    if c = ',' then [] :: splitCommas l
    else
      match splitCommas l with
      | [] => [[c]]
      | p :: r => (c :: p) :: r

/-- The value of a digit below `base`. -/
def digitValue (base : Nat) (c : Char) : Option Nat :=
  let n := c.toNat
  let v := if 48 ≤ n ∧ n ≤ 57 then n - 48 else if 65 ≤ n ∧ n ≤ 70 then n - 55 else if 97 ≤ n ∧ n ≤ 102 then n - 87 else 16
  if v < base then some v else none

/-- The number that digits spell, the most significant first, after those that spell `acc`. -/
def digitsValue (base : Nat) : Nat → List Char → Option Nat
  | acc, [] => some acc
  | acc, c :: l => (digitValue base c).bind fun d => digitsValue base (acc * base + d) l

/-- A number: decimal, or `0x` and hexadecimal digits (R109); at least one digit. -/
def numberValue : List Char → Option Nat
  | [] => none
  | '0' :: 'x' :: [] => none
  | '0' :: 'x' :: c :: l => digitsValue 16 0 (c :: l)
  | c :: l => digitsValue 10 0 (c :: l)

/-- An operand of `w` bits: a number that fits. -/
def bitsOperand (w : Nat) (l : List Char) : Option (BitVec w) :=
  (numberValue (trimmed l)).bind fun n => if n < 2 ^ w then some (BitVec.ofNat w n) else none

/-- A one-bit operand: 0 or 1. -/
def flagOperand (l : List Char) : Option Bool := (bitsOperand 1 l).map (· == 1)

/-- A register operand: by name, or by number (R31, R109). -/
def registerOperand (l : List Char) : Option Octet :=
  if trimmed l = "CTRL".toList then some 0
  else if trimmed l = "STATUS".toList then some 1
  else if trimmed l = "HDR".toList then some 2
  else if trimmed l = "LENF".toList then some 3
  else if trimmed l = "LEN".toList then some 4
  else if trimmed l = "KEY".toList then some 5
  else bitsOperand 8 l

/-- The two operands `a, n` of a buffer range. -/
def rangeOperands (f : U64 → U64 → Instr) : List (List Char) → Option Instr
  | [a, n] => (bitsOperand 64 a).bind fun a => (bitsOperand 64 n).map fun n => f a n
  | _ => none

/-- An operation without operands. -/
def noOperands (i : Instr) : List (List Char) → Option Instr
  | [] => some i
  | _ => none

/-- `ENCHDR opc, fin`. -/
def enchdrOperands : List (List Char) → Option Instr
  | [o, f] => (bitsOperand 7 o).bind fun o => (flagOperand f).map fun f => .enchdr o f
  | _ => none

/-- `ENCLEN m, len`: the reserved operand bits are 0. -/
def enclenOperands : List (List Char) → Option Instr
  | [m, n] => (flagOperand m).bind fun m => (bitsOperand 64 n).map fun n => .enclen 0 m n
  | _ => none

/-- `SETKEY k0, k1, k2, k3`. -/
def setkeyOperands : List (List Char) → Option Instr
  | [a, b, c, d] =>
    (bitsOperand 8 a).bind fun a => (bitsOperand 8 b).bind fun b => (bitsOperand 8 c).bind fun c =>
    (bitsOperand 8 d).map fun d => .setkey a b c d
  | _ => none

/-- `WRBUF a, v`. -/
def wrbufOperands : List (List Char) → Option Instr
  | [a, v] => (bitsOperand 64 a).bind fun a => (bitsOperand 8 v).map fun v => .wrbuf a v
  | _ => none

/-- `RDBUF a`. -/
def rdbufOperands : List (List Char) → Option Instr
  | [a] => (bitsOperand 64 a).map fun a => .rdbuf a
  | _ => none

/-- `RDREG r`. -/
def rdregOperands : List (List Char) → Option Instr
  | [r] => (registerOperand r).map fun r => .rdreg r
  | _ => none

/-- `WRREG r, v`. -/
def wrregOperands : List (List Char) → Option Instr
  | [r, v] => (registerOperand r).bind fun r => (bitsOperand 8 v).map fun v => .wrreg r v
  | _ => none

/-- The mnemonics (R101, R111), each with the reader of its operands. -/
def mnemonicTable : List (List Char × (List (List Char) → Option Instr)) :=
  [("DECHDR".toList, noOperands .dechdr), ("ENCHDR".toList, enchdrOperands), ("DECLEN".toList, noOperands .declen),
   ("ENCLEN".toList, enclenOperands), ("LDKEY".toList, noOperands .ldkey), ("SETKEY".toList, setkeyOperands),
   ("STKEY".toList, noOperands .stkey), ("APPLYMASK".toList, rangeOperands .applymask),
   ("MASK".toList, rangeOperands Instr.mask), ("UNMASK".toList, rangeOperands Instr.unmask),
   ("LDBUF".toList, rangeOperands .ldbuf), ("STBUF".toList, rangeOperands .stbuf), ("WRBUF".toList, wrbufOperands),
   ("RDBUF".toList, rdbufOperands), ("RDREG".toList, rdregOperands), ("WRREG".toList, wrregOperands),
   ("RESET".toList, noOperands .reset)]

/-- What a line of assembly is (R109). -/
inductive Line where
  /-- Nothing but blanks and a comment. -/
  | empty
  /-- One operation. -/
  | operation (i : Instr)
  /-- No line of the syntax. -/
  | malformed
deriving DecidableEq, Repr

/-- Read one line of assembly (R109). -/
def assemble (text : List Char) : Line :=
  let l := trimmed (withoutComment text)
  let name := l.takeWhile fun c => !blank c
  let rest := trimmed (l.dropWhile fun c => !blank c)
  if name = [] then .empty
  else
    match mnemonicTable.find? (·.1 == name) with
    | none => .malformed
    | some row =>
      match row.2 (if rest = [] then [] else splitCommas rest) with
      | some i => .operation i
      | none => .malformed

end Sys2Proof.Machine
end

