-- ==== Sys2Proof/Tests/Slice0.lean ====
section
/-! SUPPORT. The tests: ill-formed terms, words written out from the spec's encodings, one step per instruction with the expected
values of spec/95_test_vectors.md (the vector is named), and for every statement a state and operands that meet its hypotheses. -/

namespace Sys2Proof.Machine.Tests

/-! ### Small states -/

/-- Reset with the environment of spec/95: 16 octets of buffer, a TX stream that accepts everything, `rxs` to be received. -/
def boot (rxs : List Octet) : State := { State.reset with bufcap := 16, rxs := rxs, txcap := .unlimited }

/-- The same with CTRL.RXREQ clear: the receiver does not require masking. -/
def client (rxs : List Octet) : State := { boot rxs with ctrl := 0x00 }

/-- The same with a TX stream that accepts `c` octets. -/
def room (c : Nat) : State := { boot [] with txcap := .octets c }

/-- A key loaded, and the buffer of the spec's masking vectors: octet `i` holds `i`, 12 octets. -/
def keyed (k0 k1 k2 k3 : Octet) : State :=
  { boot [] with key := ⟨k0, k1, k2, k3⟩, status := 0x40, bufcap := 12,
                 buf := [(0, 0), (1, 1), (2, 2), (3, 3), (4, 4), (5, 5), (6, 6), (7, 7), (8, 8), (9, 9), (10, 10), (11, 11)] }

/-- The buffer of the spec's STBUF vectors, and room for `c` octets. -/
def filled (c : Nat) : State :=
  { room c with buf := [(0, 0x10), (1, 0x11), (2, 0x12), (3, 0x13), (4, 0x14), (5, 0x15), (6, 0x16), (7, 0x17)] }

/-- A latched error 3, as after the reserved-bit rejection of the spec's program P5. -/
def broken : State := { boot [0x85, 0, 0, 0, 0] with status := 0x03 }

/-- The next state, if there is one. -/
def after (i : Instr) (s : State) : Option State :=
  match exec i s with
  | .next t => some t
  | .fault _ => none
  | .refused _ => none

/-- The last response. -/
def said (t : State) : Option Response := t.responses.getLast?

/-- The end of a host sequence, if it has one: the TX stream, the RX stream and the result. -/
def hostEnd {α : Type} (o : HostOutcome α) : Option (List Octet × List Octet × Except HostError α) :=
  match o with
  | .next (t, r) => some (t.txs, t.rxs, r)
  | .fault _ => none
  | .refused _ => none

/-! ### Ill-formed terms are refused -/

theorem test_wf_reserved10 : WellFormed (.reserved10 0x20) = false := by decide
theorem test_wf_reserved20 : WellFormed (.reserved20 0x40) = false := by decide
theorem test_wf_reserved40 : WellFormed (.reserved40 0x80) = false := by decide
theorem test_wf_reserved80 : WellFormed (.reserved80 0x7F) = false := by decide
theorem test_wf_rsvSet40 : WellFormed (.w0RsvSet40 0x81) = false := by decide
theorem test_wf_rsvSet20 : WellFormed (.w0RsvSet20 0x60) = false := by decide
theorem test_wf_rsvSet10 : WellFormed (.w0RsvSet10 0x30) = false := by decide
theorem test_wf_inline00 : WellFormed (.w1Inline00 true 64) = false := by decide
theorem test_wf_inline40 : WellFormed (.w1Inline40 true 96) = false := by decide
theorem test_wf_inline60 : WellFormed (.w1Inline60 true 112) = false := by decide
theorem test_wf_inline70 : WellFormed (.w1Inline70 true 120) = false := by decide
theorem test_wf_inline78 : WellFormed (.w1Inline78 true 124) = false := by decide
theorem test_wf_inline7C : WellFormed (.w1Inline7C true 126) = false := by decide

/-! ### Words written out from the spec's encodings: every constructor -/

/-- Commands (R101 to R103), with the octets of spec/95 parts 2 and 3. -/
theorem test_decode_codec_commands :
    decodeCommand [0x01] = .ok .dechdr ∧
    decodeCommand [0x02, 0x90] = .ok (.enchdr 0x10 true) ∧
    decodeCommand [0x02, 0x7F] = .ok (.enchdr 0x7F false) ∧
    decodeCommand [0x03] = .ok .declen ∧
    decodeCommand [0x04, 0x00, 0x01, 0x23, 0x45, 0x67, 0x89, 0xAB, 0xCD, 0xEF] = .ok (.enclen 0 false 0x0123456789ABCDEF) ∧
    decodeCommand [0x04, 0x02, 0, 0, 0, 0, 0, 0, 0, 0x05] = .ok (.enclen 1 false 5) ∧
    decodeCommand [0x04, 0x81, 0, 0, 0, 0, 0, 0, 0, 0x05] = .ok (.enclen 0x40 true 5) := by decide

theorem test_decode_mask_commands :
    decodeCommand [0x05] = .ok .ldkey ∧
    decodeCommand [0x06, 0x37, 0xFA, 0x21, 0x3D] = .ok (.setkey 0x37 0xFA 0x21 0x3D) ∧
    decodeCommand [0x07] = .ok .stkey ∧
    decodeCommand [0x08, 0, 0, 0, 0, 0, 0, 0, 3, 0, 0, 0, 0, 0, 0, 0, 6] = .ok (.applymask 3 6) := by decide

theorem test_decode_buffer_commands :
    decodeCommand [0x09, 0, 0, 0, 0, 0, 0, 0, 0x0C, 0, 0, 0, 0, 0, 0, 0, 0x04] = .ok (.ldbuf 12 4) ∧
    decodeCommand [0x0A, 0, 0, 0, 0, 0, 0, 0, 0x02, 0, 0, 0, 0, 0, 0, 0, 0x05] = .ok (.stbuf 2 5) ∧
    decodeCommand [0x0B, 0, 0, 0, 0, 0, 0, 0, 0x0F, 0xAA] = .ok (.wrbuf 15 0xAA) ∧
    decodeCommand [0x0C, 0xFF, 0xFF, 0xFF, 0xFF, 0xFF, 0xFF, 0xFF, 0xFF] = .ok (.rdbuf 0xFFFFFFFFFFFFFFFF) := by decide

theorem test_decode_system_commands :
    decodeCommand [0x0D, 0x06] = .ok (.rdreg 6) ∧
    decodeCommand [0x0E, 0x00, 0x02] = .ok (.wrreg 0 2) ∧
    decodeCommand [0x0E, 0x05, 0x00] = .ok (.wrreg 5 0) ∧
    decodeCommand [0x0F] = .ok .reset := by decide

theorem test_decode_reserved_commands :
    decodeCommand [0x00] = .ok .reserved00 ∧
    decodeCommand [0x10] = .ok (.reserved10 0x10) ∧ decodeCommand [0x1F] = .ok (.reserved10 0x1F) ∧
    decodeCommand [0x20] = .ok (.reserved20 0x20) ∧ decodeCommand [0x3F] = .ok (.reserved20 0x3F) ∧
    decodeCommand [0x40] = .ok (.reserved40 0x40) ∧ decodeCommand [0x7F] = .ok (.reserved40 0x7F) ∧
    decodeCommand [0x80] = .ok (.reserved80 0x80) ∧ decodeCommand [0xFF] = .ok (.reserved80 0xFF) := by decide

/-- Leading octets (R91, R92): bit 7 FIN, bits 3 to 0 the opcode. -/
theorem test_decode_leading_octets :
    decodeW0 [0x80] = .ok (.w0Continuation true) ∧ decodeW0 [0x01] = .ok (.w0Text false) ∧
    decodeW0 [0x82] = .ok (.w0Binary true) ∧ decodeW0 [0x83] = .ok (.w0Unknown3 true) ∧
    decodeW0 [0x04] = .ok (.w0Unknown4 false) ∧ decodeW0 [0x85] = .ok (.w0Unknown5 true) ∧
    decodeW0 [0x06] = .ok (.w0Unknown6 false) ∧ decodeW0 [0x87] = .ok (.w0Unknown7 true) ∧
    decodeW0 [0x88] = .ok (.w0Close true) ∧ decodeW0 [0x09] = .ok (.w0Ping false) ∧
    decodeW0 [0x8A] = .ok (.w0Pong true) ∧ decodeW0 [0x0B] = .ok (.w0UnknownB false) ∧
    decodeW0 [0x8C] = .ok (.w0UnknownC true) ∧ decodeW0 [0x0D] = .ok (.w0UnknownD false) ∧
    decodeW0 [0x8E] = .ok (.w0UnknownE true) ∧ decodeW0 [0x0F] = .ok (.w0UnknownF false) := by decide

/-- Leading octets with a reserved bit set (R105): spec/95 H6 to H10. -/
theorem test_decode_reserved_bits :
    decodeW0 [0x90] = .ok (.w0RsvSet10 0x90) ∧ decodeW0 [0xA1] = .ok (.w0RsvSet20 0xA1) ∧
    decodeW0 [0xC1] = .ok (.w0RsvSet40 0xC1) ∧ decodeW0 [0xF1] = .ok (.w0RsvSet40 0xF1) ∧
    decodeW0 [0x70] = .ok (.w0RsvSet40 0x70) ∧ decodeW0 [0x30] = .ok (.w0RsvSet20 0x30) := by decide

/-- Length fields (R93 to R96): the first and the last code of every inline row, and the two extended forms. -/
theorem test_decode_length_fields :
    decodeW1 [0x80] = .ok (.w1Inline00 true 0) ∧ decodeW1 [0x3F] = .ok (.w1Inline00 false 63) ∧
    decodeW1 [0xC0] = .ok (.w1Inline40 true 64) ∧ decodeW1 [0x5F] = .ok (.w1Inline40 false 95) ∧
    decodeW1 [0xE0] = .ok (.w1Inline60 true 96) ∧ decodeW1 [0x6F] = .ok (.w1Inline60 false 111) ∧
    decodeW1 [0xF0] = .ok (.w1Inline70 true 112) ∧ decodeW1 [0x77] = .ok (.w1Inline70 false 119) ∧
    decodeW1 [0xF8] = .ok (.w1Inline78 true 120) ∧ decodeW1 [0x7B] = .ok (.w1Inline78 false 123) ∧
    decodeW1 [0xFC] = .ok (.w1Inline7C true 124) ∧ decodeW1 [0xFD] = .ok (.w1Inline7C true 125) ∧
    decodeW1 [0xFE, 0x01, 0x2C] = .ok (.w1Ext16 true 300) ∧
    decodeW1 [0x7F, 0x01, 0x23, 0x45, 0x67, 0x89, 0xAB, 0xCD, 0xEF] = .ok (.w1Ext64 false 0x0123456789ABCDEF) := by decide

/-- Octets that are no command, leading octet or length field are refused by name (R100, U18). -/
theorem test_decode_refuses :
    decodeCommand [] = .error .empty ∧ decodeCommand [0x0D] = .error (.wrongLength 0x0D) ∧
    decodeCommand [0x01, 0x00] = .error (.wrongLength 0x01) ∧ decodeCommand [0x10, 0x00] = .error (.wrongLength 0x10) ∧
    decodeW0 [0x81, 0x85] = .error (.wrongLength 0x81) ∧ decodeW1 [0xFE, 0x01] = .error (.wrongLength 0xFE) := by decide

/-- The encoder writes what the spec writes (spec/95 X8, E9, K7, B8). -/
theorem test_encode :
    encode (.enchdr 0x10 true) = [0x02, 0x90] ∧
    encode (.enclen 0 true 65535) = [0x04, 0x01, 0, 0, 0, 0, 0, 0, 0xFF, 0xFF] ∧
    encode (.applymask 3 6) = [0x08, 0, 0, 0, 0, 0, 0, 0, 3, 0, 0, 0, 0, 0, 0, 0, 6] ∧
    encode (.wrbuf 15 0xAA) = [0x0B, 0, 0, 0, 0, 0, 0, 0, 0x0F, 0xAA] := by decide

/-- A table word: bit 0 is bit 0 of the command code, later octets count on, and missing operand octets are zero. -/
theorem test_table_word :
    decodeTableWord 16 0x8102 = some (.enchdr 1 true) ∧ decodeTableWord 8 0x0C = some (.rdbuf 0) ∧
    decodeTableWord 8 0x7F = some (.reserved40 0x7F) := by decide

/-- Assembly lines (R109). -/
theorem test_assembly :
    assembly (.enchdr 8 true) = some "ENCHDR 8, 1" ∧ assembly (.rdreg 4) = some "RDREG LEN" ∧ assembly .ldkey = some "LDKEY" := by
  decide

/-- Reading lines (R109, R111): both number forms, register names, a comment, a pseudo-operation; lower case is no mnemonic. -/
theorem test_assemble :
    assemble "ENCHDR 0x1, 1 ; Text".toList = .operation (.enchdr 1 true) ∧
    assemble "SETKEY 0x37, 0xFA, 0x21, 0x3D".toList = .operation (.setkey 0x37 0xFA 0x21 0x3D) ∧
    assemble "RDREG LEN".toList = .operation (.rdreg 4) ∧ assemble "UNMASK 3, 6".toList = .operation (.applymask 3 6) ∧
    assemble "; nothing".toList = .empty ∧ assemble "dechdr".toList = .malformed ∧
    assemble "WRREG 0, 256".toList = .malformed := by decide

/-! ### One step -/

/-- H4: exactly one octet is consumed. -/
theorem test_dechdr : (after .dechdr (boot [0x8A, 0x55])).map (fun t => (t.fin, t.opc, t.status, t.rxs, said t)) =
    some (true, 0x0A, 0x10, [0x55], some .ok) := by decide

/-- H11: a reserved bit; the octet is consumed and the registers stay. -/
theorem test_dechdr_reserved : (after .dechdr (boot [0x10, 0x81])).map (fun t => (t.fin, t.opc, t.status, t.rxs, said t)) =
    some (false, 0x00, 0x03, [0x81], some (.err 3)) := by decide

/-- X7: the largest legal opcode. -/
theorem test_enchdr : (after (.enchdr 0xF false) (boot [])).map (fun t => (t.txs, t.status, said t)) =
    some ([0x0F], 0x00, some .ok) := by decide

/-- X12: the operand is tested before the write falls short. -/
theorem test_enchdr_range : (after (.enchdr 0x11 true) (room 0)).map (fun t => (t.txs, t.status, said t)) =
    some ([], 0x05, some (.err 5)) := by decide

/-- L9: the order of the extension octets. -/
theorem test_declen :
    (after .declen (boot [0xFF, 0x01, 0x23, 0x45, 0x67, 0x89, 0xAB, 0xCD, 0xEF])).map
      (fun t => (t.len, t.masked, t.status, t.rxs, said t)) = some (0x0123456789ABCDEF, true, 0x20, [], some .ok) := by decide

/-- L12: the mask flag is tested before the extension is read. -/
theorem test_declen_mask : (after .declen (boot [0x7E, 0x01, 0x00, 0xAA])).map (fun t => (t.len, t.masked, t.status, t.rxs, said t)) =
    some (0, false, 0x04, [0x01, 0x00, 0xAA], some (.err 4)) := by decide

/-- E6: 127 takes the 16-bit form. -/
theorem test_enclen : (after (.enclen 0 false 127) (boot [])).map (fun t => (t.txs, t.status, said t)) =
    some ([0x7E, 0x00, 0x7F], 0x00, some .ok) := by decide

/-- E17: the accepted part of the field is on the wire. -/
theorem test_enclen_short : (after (.enclen 0 true 65536) (room 4)).map (fun t => (t.txs, t.txcap, t.status, said t)) =
    some ([0xFF, 0, 0, 0], .octets 0, 0x02, some (.err 2)) := by decide

/-- K1. -/
theorem test_ldkey : (after .ldkey (boot [0xA1, 0xB2, 0xC3, 0xD4, 0xE5])).map (fun t => (t.key, t.status, t.rxs, said t)) =
    some (⟨0xA1, 0xB2, 0xC3, 0xD4⟩, 0x40, [0xE5], some .ok) := by decide

/-- K2. -/
theorem test_ldkey_short : (after .ldkey (boot [0xA1, 0xB2, 0xC3])).map (fun t => (t.key, t.status, t.rxs, said t)) =
    some (⟨0, 0, 0, 0⟩, 0x01, [], some (.err 1)) := by decide

/-- K3. -/
theorem test_setkey : (after (.setkey 0x37 0xFA 0x21 0x3D) (boot [])).map (fun t => (t.key, t.status, said t)) =
    some (⟨0x37, 0xFA, 0x21, 0x3D⟩, 0x40, some .ok) := by decide

/-- K4. -/
theorem test_stkey_invalid : (after .stkey (boot [])).map (fun t => (t.txs, t.status, said t)) =
    some ([], 0x07, some (.err 7)) := by decide

/-- K6: two of the four octets are accepted. -/
theorem test_stkey_short : (after .stkey { keyed 1 2 3 4 with txcap := .octets 2 }).map (fun t => (t.txs, t.txcap, t.status, said t)) =
    some ([1, 2], .octets 0, 0x42, some (.err 2)) := by decide

/-- K7: the key index counts from the start of the range. -/
theorem test_applymask : (after (.applymask 3 6) (keyed 0xA1 0xB2 0xC3 0xD4)).map (fun t => (bufSlice t 0 12, said t)) =
    some ([0x00, 0x01, 0x02, 0xA2, 0xB6, 0xC6, 0xD2, 0xA6, 0xBA, 0x09, 0x0A, 0x0B], some .ok) := by decide

/-- K8: 8 + 5 is more than 12. -/
theorem test_applymask_range : (after (.applymask 8 5) (keyed 0xA1 0xB2 0xC3 0xD4)).map (fun t => (t.buf.length, t.status, said t)) =
    some (12, 0x46, some (.err 6)) := by decide

/-- B1. -/
theorem test_ldbuf : (after (.ldbuf 12 4) (boot [1, 2, 3, 4, 5])).map (fun t => (bufSlice t 12 4, t.rxs, t.status, said t)) =
    some ([1, 2, 3, 4], [5], 0x00, some .ok) := by decide

/-- B3: the sum is not taken modulo 2^64. -/
theorem test_ldbuf_range : (after (.ldbuf 0xFFFFFFFFFFFFFFFF 0xFFFFFFFFFFFFFFFF) (boot [1, 2, 3])).map
    (fun t => (t.rxs, t.status, said t)) = some ([1, 2, 3], 0x06, some (.err 6)) := by decide

/-- B12. -/
theorem test_stbuf : (after (.stbuf 2 5) (filled 5)).map (fun t => (t.txs, t.txcap, t.status, said t)) =
    some ([0x12, 0x13, 0x14, 0x15, 0x16], .octets 0, 0x00, some .ok) := by decide

/-- B13. -/
theorem test_stbuf_short : (after (.stbuf 0 5) (filled 3)).map (fun t => (t.txs, t.txcap, t.status, said t)) =
    some ([0x10, 0x11, 0x12], .octets 0, 0x02, some (.err 2)) := by decide

/-- B8, the write. -/
theorem test_wrbuf : (after (.wrbuf 15 0xAA) (boot [])).map (fun t => (bufRead t 15, said t)) = some (0xAA, some .ok) := by decide

/-- B9. -/
theorem test_wrbuf_range : (after (.wrbuf 16 0xAA) (boot [])).map (fun t => (t.buf, t.status, said t)) =
    some ([], 0x06, some (.err 6)) := by decide

/-- B8, the read. -/
theorem test_rdbuf : (after (.rdbuf 7) (filled 0)).map (fun t => (t.status, said t)) = some (0x00, some (.okValue 0x17)) := by decide

/-- B11: a + 1 does not wrap. -/
theorem test_rdbuf_range : (after (.rdbuf 0xFFFFFFFFFFFFFFFF) (boot [])).map (fun t => (t.status, said t)) =
    some (0x06, some (.err 6)) := by decide

/-- K3: KEY[0] is the most significant octet of the KEY view. -/
theorem test_rdreg : (after (.rdreg 5) (keyed 0x37 0xFA 0x21 0x3D)).map said = some (some (.okValue 0x37FA213D)) := by decide

/-- Y6: a bad number in the error state answers 9 and leaves the latch. -/
theorem test_rdreg_reserved : (after (.rdreg 9) broken).map (fun t => (t.status, said t)) = some (0x03, some (.err 9)) := by decide

/-- Y3. -/
theorem test_wrreg : (after (.wrreg 0 0) (boot [])).map (fun t => (t.ctrl, said t)) = some (0x00, some .ok) := by decide

/-- Y4. -/
theorem test_wrreg_reserved : (after (.wrreg 0 2) (boot [])).map (fun t => (t.ctrl, t.status, said t)) =
    some (0x01, 0x09, some (.err 9)) := by decide

/-- Y7: the registers go back, the buffer stays. -/
theorem test_reset : (after .reset { keyed 1 2 3 4 with ctrl := 0, rxs := [0x81], txs := [0x89] }).map
    (fun t => (t.key, t.status, bufRead t 5, t.rxs)) = some (⟨0, 0, 0, 0⟩, 0x00, 5, [0x81]) := by decide

/-- Y5. -/
theorem test_reserved_commands :
    ([Instr.reserved00, .reserved10 0x10, .reserved20 0x20, .reserved40 0x40, .reserved80 0xFF].map fun i =>
      (after i (boot [])).map fun t => (t.status, said t)) = List.replicate 5 (some (0x08, some (.err 8))) := by decide

/-- P5: while an error is latched, DECLEN reads nothing and answers the latched code. -/
theorem test_error_state : (after .declen broken).map (fun t => (t.status, t.rxs, said t)) =
    some (0x03, [0x85, 0, 0, 0, 0], some (.err 3)) := by decide

/-- H1, H3, H5 and the other opcodes as octets on the wire: OPC is the opcode, FIN bit 7, HDRV set, the octet gone. -/
theorem test_wire_opcodes :
    ([Instr.w0Continuation true, .w0Text true, .w0Binary true, .w0Unknown3 true, .w0Unknown4 true, .w0Unknown5 true,
      .w0Unknown6 true, .w0Unknown7 true, .w0Close true, .w0Ping true, .w0Pong true, .w0UnknownB true, .w0UnknownC true,
      .w0UnknownD true, .w0UnknownE true, .w0UnknownF true].map fun i => (after i (boot [])).map fun t => (t.fin, t.opc, t.status)) =
    [some (true, 0, 0x10), some (true, 1, 0x10), some (true, 2, 0x10), some (true, 3, 0x10), some (true, 4, 0x10),
     some (true, 5, 0x10), some (true, 6, 0x10), some (true, 7, 0x10), some (true, 8, 0x10), some (true, 9, 0x10),
     some (true, 10, 0x10), some (true, 11, 0x10), some (true, 12, 0x10), some (true, 13, 0x10), some (true, 14, 0x10),
     some (true, 15, 0x10)] := by decide

/-- H6 to H8 as octets on the wire. -/
theorem test_wire_reserved_bits :
    ([Instr.w0RsvSet10 0x90, .w0RsvSet20 0xA1, .w0RsvSet40 0xC1].map fun i => (after i (boot [0x55])).map fun t => (t.status, t.rxs)) =
    [some (0x03, [0x55]), some (0x03, [0x55]), some (0x03, [0x55])] := by decide

/-- L1, L4, L6, L9 and the other inline rows as fields on the wire. -/
theorem test_wire_lengths :
    ([Instr.w1Inline00 true 5, .w1Inline40 true 64, .w1Inline60 true 111, .w1Inline70 true 112, .w1Inline78 true 123,
      .w1Inline7C true 125, .w1Ext16 true 300, .w1Ext64 true 0x0123456789ABCDEF].map fun i =>
        (after i (boot [0x55])).map fun t => (t.len, t.masked, t.status, t.rxs)) =
    [some (5, true, 0x20, [0x55]), some (64, true, 0x20, [0x55]), some (111, true, 0x20, [0x55]), some (112, true, 0x20, [0x55]),
     some (123, true, 0x20, [0x55]), some (125, true, 0x20, [0x55]), some (300, true, 0x20, [0x55]),
     some (0x0123456789ABCDEF, true, 0x20, [0x55])] := by decide

/-! ### Host sequences -/

/-- Q1: a server receives a masked Text. -/
theorem test_recv_text :
    hostEnd (recvFrame 0 (boot [0x81, 0x85, 0x37, 0xFA, 0x21, 0x3D, 0x7F, 0x9F, 0x4D, 0x51, 0x58])) =
    some ([], [], .ok (.text ⟨[0x48, 0x65, 0x6C, 0x6C, 0x6F], by decide⟩)) := by decide

/-- Q7: a Close, most significant octet of the reason first. -/
theorem test_recv_close : hostEnd (recvFrame 0 (boot [0x88, 0x82, 0x37, 0xFA, 0x21, 0x3D, 0x34, 0x12])) =
    some ([], [], .ok (.close 1000)) := by decide

/-- T1: a client sends a Text. -/
theorem test_send_text :
    hostEnd (sendFrame (.text ⟨[0x48, 0x65, 0x6C, 0x6C, 0x6F], by decide⟩) .client 0 ⟨0x37, 0xFA, 0x21, 0x3D⟩ (boot [])) =
    some ([0x81, 0x85, 0x37, 0xFA, 0x21, 0x3D, 0x7F, 0x9F, 0x4D, 0x51, 0x58], [], .ok 0) := by decide

/-- T3: a server sends a Close. -/
theorem test_send_close : hostEnd (sendFrame (.close 1000) .server 0 ⟨0, 0, 0, 0⟩ (boot [])) =
    some ([0x88, 0x02, 0x03, 0xE8], [], .ok 0) := by decide

/-- R245: the first WRBUF outside the buffer answers ERR(6) and nothing is sent, also where p + L runs past 2^64. -/
theorem test_send_outside : hostEnd (sendFrame (.text ⟨[1, 2], by decide⟩) .server 0xFFFFFFFFFFFFFFFF ⟨0, 0, 0, 0⟩ (boot [])) =
    some ([], [], .error (.block 6)) := by decide

/-- T10: nothing is issued. -/
theorem test_send_invalid : hostEnd (sendFrame .invalid .client 0 ⟨0, 0, 0, 0⟩ (boot [])) =
    some ([], [], .error .invalidFrame) := by decide

/-! ### Witnesses: a state and operands that meet the hypotheses of each statement, clause by clause -/

theorem wit_DecodeEncodeRoundTrip : WellFormed (.reserved10 0x1F) = true ∧ WellFormed (.w1Inline7C false 125) = true ∧
    WellFormed (.w0RsvSet20 0xBF) = true ∧ WellFormed (.enclen 0x7F true 0xFFFFFFFFFFFFFFFF) = true := by decide

theorem wit_EncodeDecodeRoundTrip : decodeIn .command [0x0E, 0x00, 0x01] = .ok (.wrreg 0 1) ∧
    decodeIn .w0 [0x8A] = .ok (.w0Pong true) ∧ decodeIn .w1 [0xFE, 0x00, 0x7E] = .ok (.w1Ext16 true 126) := by decide

theorem wit_StepRunsDeliveredCommand :
    (WellFormed (.setkey 1 2 3 4) = true ∧ (Instr.setkey 1 2 3 4).space = .command ∧
      ({ boot [] with port := [encode (.setkey 1 2 3 4)] } : State).port = encode (.setkey 1 2 3 4) :: []) ∧
    (decodeCommand [0x0D, 0x02] = .ok (.rdreg 2) ∧
      ({ boot [] with port := [[0x0D, 0x02], [0x0F]] } : State).port = [0x0D, 0x02] :: [[0x0F]]) ∧
    (boot []).port = [] := by decide

theorem wit_MalformedTransferIsRefused :
    (({ boot [] with port := [[]] } : State).port = [] :: []) ∧
    (({ boot [] with port := [[0x0D]] } : State).port = [0x0D] :: [] ∧ ([] : List Octet).length ≠ operandOctets 0x0D) ∧
    (({ boot [] with port := [[0x0D, 1]] } : State).port = [0x0D, 1] :: [] ∧ ([1] : List Octet).length = operandOctets 0x0D) := by
  decide

theorem wit_HeaderCodecIsBijective : (15 : BitVec 7).toNat ≤ 15 ∧ (0x8F : Octet) &&& 0x70 = 0 ∧ (0x10 : Octet) &&& 0x70 ≠ 0 := by
  decide

theorem wit_PackLength : (125 : U64).toNat ≤ 125 ∧ (126 ≤ (126 : U64).toNat ∧ (126 : U64).toNat ≤ 65535) ∧
    (126 ≤ (65535 : U64).toNat ∧ (65535 : U64).toNat ≤ 65535) ∧ 65536 ≤ (65536 : U64).toNat ∧
    decodeOctets [0xFE, 0x00, 0x05] = some (5, true, []) := by decide

theorem wit_MaskOctetsElementwise : 4 < ([0x48, 0x65, 0x6C, 0x6C, 0x6F] : List Octet).length := by decide

theorem wit_MaskSplitting : ([0x10, 0x11, 0x12, 0x13] : List Octet).length % 4 = 0 := by decide

theorem wit_Dechdr : noError (boot []) ∧ (boot []).rxs = [] ∧
    (noError (boot [0x10, 0x81]) ∧ (boot [0x10, 0x81]).rxs = 0x10 :: [0x81] ∧ (0x10 : Octet) &&& 0x70 ≠ 0) ∧
    (noError (boot [0x8F]) ∧ (boot [0x8F]).rxs = 0x8F :: [] ∧ (0x8F : Octet) &&& 0x70 = 0) := by decide

theorem wit_Enchdr : noError (boot []) ∧ 15 < (16 : BitVec 7).toNat ∧
    (noError (room 0) ∧ (15 : BitVec 7).toNat ≤ 15 ∧ (room 0).txcap = .octets 0) ∧
    (noError (room 1) ∧ hasRoom (room 1).txcap 1) ∧ hasRoom (boot []).txcap 1 := by decide

theorem wit_DeclenDecodes :
    (noError (boot [0xFD]) ∧ (0xFD : Octet).getLsbD 7 = true ∧ (boot [0xFD]).rxs = 0xFD :: [] ∧
      ((0xFD : Octet) &&& 0x7F).toNat ≤ 125) ∧
    (noError (client [0x7E, 0, 5]) ∧ rxreq (client [0x7E, 0, 5]).ctrl = false ∧ (client [0x7E, 0, 5]).rxs = 0x7E :: 0 :: 5 :: [] ∧
      (0x7E : Octet) &&& 0x7F = 126) ∧
    (noError (boot [0xFF, 0, 0, 0, 0, 0, 1, 0, 0]) ∧
      (boot [0xFF, 0, 0, 0, 0, 0, 1, 0, 0]).rxs = 0xFF :: 0 :: 0 :: 0 :: 0 :: 0 :: 1 :: 0 :: 0 :: [] ∧
      (0xFF : Octet) &&& 0x7F = 127 ∧ (0xFF : Octet).getLsbD 7 = true) := by decide

theorem wit_DeclenMaskBitRequired :
    (noError (boot [0x05, 0x48]) ∧ (boot [0x05, 0x48]).rxs = 0x05 :: [0x48] ∧ (0x05 : Octet).getLsbD 7 = false ∧
      rxreq (boot [0x05, 0x48]).ctrl = true) ∧
    (noError (client [0x7E, 1, 0]) ∧ (client [0x7E, 1, 0]).rxs = 0x7E :: [1, 0] ∧ rxreq (client [0x7E, 1, 0]).ctrl = false ∧
      extensionOctets ((0x7E : Octet).extractLsb' 0 7) ≤ ([1, 0] : List Octet).length) := by decide

theorem wit_DeclenShortStream : noError (boot []) ∧ (boot []).rxs = [] ∧
    ((boot [0xFE, 1]).rxs = 0xFE :: [1] ∧ (0xFE : Octet).getLsbD 7 = true ∧ (0xFE : Octet) &&& 0x7F = 126 ∧
      ([1] : List Octet).length < 2) ∧
    ((boot [0xFF, 0, 0, 0, 0, 0, 0, 0]).rxs = 0xFF :: [0, 0, 0, 0, 0, 0, 0] ∧ (0xFF : Octet) &&& 0x7F = 127 ∧
      ([0, 0, 0, 0, 0, 0, 0] : List Octet).length < 8) := by decide

theorem wit_Enclen : noError (boot []) ∧ (1 : BitVec 7) ≠ 0 ∧
    (noError (room 2) ∧ (room 2).txcap = .octets 2 ∧ 2 < (packLength 300 false).length) ∧
    (noError (room 3) ∧ hasRoom (room 3).txcap (packLength 300 false).length) := by decide

theorem wit_Ldkey : noError (boot [0xA1, 0xB2, 0xC3, 0xD4, 0xE5]) ∧
    (boot [0xA1, 0xB2, 0xC3, 0xD4, 0xE5]).rxs = 0xA1 :: 0xB2 :: 0xC3 :: 0xD4 :: [0xE5] ∧
    noError (boot [0xA1, 0xB2, 0xC3]) ∧ (boot [0xA1, 0xB2, 0xC3]).rxs.length < 4 := by decide

theorem wit_Setkey : noError (boot []) := by decide

theorem wit_Stkey : (noError (boot []) ∧ keyvOf (boot []).status = false) ∧
    (noError (keyed 1 2 3 4) ∧ keyvOf (keyed 1 2 3 4).status = true ∧ hasRoom (keyed 1 2 3 4).txcap 4) ∧
    (noError { keyed 1 2 3 4 with txcap := .octets 3 } ∧ keyvOf (keyed 1 2 3 4).status = true ∧ 3 < 4) := by decide

theorem wit_Applymask : (noError (boot []) ∧ keyvOf (boot []).status = false) ∧
    (noError (keyed 1 2 3 4) ∧ keyvOf (keyed 1 2 3 4).status = true ∧
      (keyed 1 2 3 4).bufcap < (8 : U64).toNat + (5 : U64).toNat ∧ (8 : U64).toNat + (4 : U64).toNat ≤ (keyed 1 2 3 4).bufcap) := by
  decide

theorem wit_Ldbuf : noError (boot [1, 2, 3, 4, 5]) ∧
    (boot [1, 2, 3, 4, 5]).bufcap < (12 : U64).toNat + (5 : U64).toNat ∧
    ((12 : U64).toNat + (4 : U64).toNat ≤ (boot [1, 2, 3, 4, 5]).bufcap ∧ (4 : U64).toNat ≤ (boot [1, 2, 3, 4, 5]).rxs.length) ∧
    (noError (boot [1, 2, 3]) ∧ (0 : U64).toNat + (4 : U64).toNat ≤ (boot [1, 2, 3]).bufcap ∧
      (boot [1, 2, 3]).rxs.length < (4 : U64).toNat) := by decide

theorem wit_Stbuf : noError (filled 5) ∧ (filled 5).bufcap < (12 : U64).toNat + (5 : U64).toNat ∧
    ((2 : U64).toNat + (5 : U64).toNat ≤ (filled 5).bufcap ∧ hasRoom (filled 5).txcap (5 : U64).toNat) ∧
    (noError (filled 3) ∧ (filled 3).txcap = .octets 3 ∧ 3 < (5 : U64).toNat) := by decide

theorem wit_Wrbuf : noError (boot []) ∧ (boot []).bufcap ≤ (16 : U64).toNat ∧ (15 : U64).toNat < (boot []).bufcap := by decide

theorem wit_Rdbuf : noError (filled 0) ∧ (filled 0).bufcap ≤ (16 : U64).toNat ∧ (15 : U64).toNat < (filled 0).bufcap ∧
    errorState broken := by decide

theorem wit_Rdreg : 6 ≤ (6 : Octet).toNat ∧ noError (boot []) ∧ errorState broken := by decide

theorem wit_Wrreg : noError (boot []) ∧ (0x01 : Octet) &&& 0xFE = 0 ∧ (0x02 : Octet) &&& 0xFE ≠ 0 ∧ (5 : Octet) ≠ 0 := by decide

theorem wit_ResetOperation : errorState broken ∧ ∃ u, exec .dechdr broken = .next u := ⟨by decide, _, rfl⟩

theorem wit_ReservedCommand : noError (boot []) ∧ 0x10 ≤ (0x10 : Octet).toNat ∧ 0x10 ≤ (0xFF : Octet).toNat := by decide

theorem wit_LeadingOctetRows : noError (boot []) ∧
    (Instr.w0UnknownF false, (0xF : BitVec 7)) ∈ [(Instr.w0UnknownF false, (0xF : BitVec 7))] := by decide

theorem wit_ReservedBitRows : noError (boot []) ∧ WellFormed (.w0RsvSet40 0x40) = true ∧ WellFormed (.w0RsvSet20 0xA0) = true ∧
    WellFormed (.w0RsvSet10 0x9F) = true ∧ (0x9F : Octet) &&& 0x70 ≠ 0 := by decide

theorem wit_LengthFieldRows : noError (client []) ∧ rxreq (client []).ctrl = false ∧ WellFormed (.w1Inline00 false 63) = true ∧
    WellFormed (.w1Inline40 false 95) = true ∧ WellFormed (.w1Inline60 false 96) = true ∧
    WellFormed (.w1Inline70 false 119) = true ∧ WellFormed (.w1Inline78 false 120) = true ∧
    WellFormed (.w1Inline7C false 125) = true ∧
    (noError (boot []) ∧ rxreq (boot []).ctrl = true ∧ (Instr.w1Ext16 false 300).space = .w1 ∧
      WellFormed (.w1Ext16 false 300) = true ∧ (octetAt (encode (.w1Ext16 false 300)) 0).getLsbD 7 = false) := by decide

theorem wit_DecodeOperationsRunWireRows : (boot [0x81, 0x85]).rxs = 0x81 :: [0x85] ∧
    decodeW1 [0xFE, 0x01, 0x2C] = .ok (.w1Ext16 true 300) ∧ (boot [0xFE, 0x01, 0x2C, 0xAA]).rxs = [0xFE, 0x01, 0x2C] ++ [0xAA] := by
  decide

theorem wit_LatchedErrorRefuses : errorState broken ∧ (Instr.stkey).space = .command ∧ Instr.stkey ≠ .reset ∧
    (5 : Octet).toNat ≤ 5 ∧ 6 ≤ (6 : Octet).toNat := by decide

theorem wit_LatchedErrorRefuses_rdreg : ∀ r, Instr.stkey ≠ .rdreg r := by intro r; simp

theorem wit_FirstErrorStays : (∃ t, exec .ldkey broken = .next t) ∧ errorState broken ∧
    (∃ t, exec .ldkey (boot []) = .next t) ∧ noError (boot []) ∧ Instr.ldkey ≠ .reset :=
  ⟨⟨_, rfl⟩, by decide, ⟨_, rfl⟩, by decide, by decide⟩

theorem wit_FailureKeepsRegisters :
    ∃ t, exec (.ldbuf 0 4) (boot [1, 2, 3]) = .next t ∧ t.responses = (boot [1, 2, 3]).responses ++ [.err 1] := ⟨_, rfl, rfl⟩

theorem wit_RegisterFrame : (∃ t, exec (.wrreg 0 0) (boot []) = .next t) ∧ ¬decodesHeader (.wrreg 0 0) ∧
    ¬decodesLength (.wrreg 0 0) ∧ loadsKey (.wrreg 0 0) = false ∧ Instr.wrreg 0 0 ≠ .reset := ⟨⟨_, rfl⟩, by decide⟩

theorem wit_RegisterFrame_ctrl : (∃ t, exec .declen (boot [0x85]) = .next t) ∧ ∀ r v, Instr.declen ≠ .wrreg r v :=
  ⟨⟨_, rfl⟩, fun r v => by simp⟩

theorem wit_ValidBitsOnlyResetClears : Instr.stkey ≠ .reset ∧ (∃ t, exec .stkey { keyed 1 2 3 4 with status := 0x70 } = .next t) ∧
    hdrvOf 0x70 = true ∧ lenvOf 0x70 = true ∧ keyvOf 0x70 = true := ⟨by decide, ⟨_, rfl⟩, by decide⟩

theorem wit_BufferFrame : (∃ t, exec (.wrbuf 15 0xAA) (boot []) = .next t) ∧ ¬storesTo (.wrbuf 15 0xAA) 14 ∧
    (∃ t, exec (.ldbuf 12 4) (boot [1, 2, 3, 4]) = .next t) ∧ ¬storesTo (.ldbuf 12 4) 11 ∧ ¬storesTo (.ldbuf 8 4) 12 :=
  ⟨⟨_, rfl⟩, by simp [storesTo], ⟨_, rfl⟩, by simp [storesTo], by simp [storesTo]⟩

theorem wit_StreamFrame : (∃ t, exec (.stbuf 0 5) (filled 3) = .next t) ∧ readsStream (.stbuf 0 5) = false ∧
    (filled 3).txcap = .octets 3 ∧ (∃ t, exec .ldkey (boot [1]) = .next t) ∧ (Instr.ldkey).space = .command ∧
    writesStream .ldkey = false ∧ (boot [1]).txcap = .unlimited := ⟨⟨_, rfl⟩, by decide, by decide, ⟨_, rfl⟩, by decide⟩

theorem wit_NoLookahead : ∃ t, exec .dechdr (boot [0x81]) = .next t ∧ (Instr.dechdr).space = .command ∧
    t.responses ≠ (boot [0x81]).responses ++ [.err 1] := ⟨_, rfl, rfl, by decide⟩

theorem wit_CommandsStayOnThePort : ∃ t, exec .dechdr (boot [0x81]) = .next t := ⟨_, rfl⟩

/-- The invariant holds in a state that is not the reset state. -/
theorem wit_StepKeepsInv : Inv { keyed 1 2 3 4 with port := [[0x0F]] } ∧
    ∃ t, step { keyed 1 2 3 4 with port := [[0x0F]] } = .next t :=
  ⟨⟨by decide, by decide, by decide, by decide, by decide, by decide, by decide, by decide, by decide, by decide⟩, _, rfl⟩

/-- A TX stream with exactly room for the four octets of a server's Close (T3), and one with room for three. -/
theorem wit_SendFrameEmitsWireFormat : frameContent (.close 1000) = some (0x8, [0x03, 0xE8]) ∧ noError (room 4) ∧
    (14 : U64).toNat + ([0x03, 0xE8] : List Octet).length ≤ (room 4).bufcap ∧
    [0x88, 0x02, 0x03, 0xE8] = frameOctets 0x8 true (if Role.server = .client then some ⟨0, 0, 0, 0⟩ else none) [0x03, 0xE8] ∧
    hasRoom (room 4).txcap ([0x88, 0x02, 0x03, 0xE8] : List Octet).length ∧
    (noError (room 3) ∧ (room 3).txcap = .octets 3 ∧ 3 < ([0x88, 0x02, 0x03, 0xE8] : List Octet).length) := by decide

/-- A Close one octet too far up in a buffer of 16, and at the last address there is. -/
theorem wit_SendFrameStopsAtFirstError : frameContent (.close 1000) = some (0x8, [0x03, 0xE8]) ∧ noError (boot []) ∧
    ([0x03, 0xE8] : List Octet) ≠ [] ∧ (boot []).bufcap < (15 : U64).toNat + ([0x03, 0xE8] : List Octet).length ∧
    (boot []).bufcap < (0xFFFFFFFFFFFFFFFF : U64).toNat + ([0x03, 0xE8] : List Octet).length ∧
    (Frame.close 1000 ≠ .invalid ∧ errorState broken) := by decide

/-- An unmasked Text, as a server sends it, and a masked Close, as a client does. -/
theorem wit_RecvFrame :
    (frameContent (.text ⟨[0x48, 0x69], by decide⟩) = some (0x1, [0x48, 0x69]) ∧ noError (client [0x81, 0x02, 0x48, 0x69, 0x89]) ∧
      rxreq (client [0x81, 0x02, 0x48, 0x69, 0x89]).ctrl = false ∧ (14 : U64).toNat + ([0x48, 0x69] : List Octet).length ≤ 16 ∧
      (client [0x81, 0x02, 0x48, 0x69, 0x89]).rxs = frameOctets 0x1 true none [0x48, 0x69] ++ [0x89]) ∧
    (frameContent (.close 1000) = some (0x8, [0x03, 0xE8]) ∧
      (boot [0x88, 0x82, 0x37, 0xFA, 0x21, 0x3D, 0x34, 0x12]).rxs =
        frameOctets 0x8 true (some ⟨0x37, 0xFA, 0x21, 0x3D⟩) [0x03, 0xE8] ++ []) := by decide

/-- A server sends, a client receives; and the other way round. -/
theorem wit_FrameRoundTrip : frameContent (.ping ⟨[1, 2], by decide⟩) = some (0x9, [1, 2]) ∧ ([1, 2] : List Octet).length ≤ 125 ∧
    noError (boot []) ∧ (0 : U64).toNat + ([1, 2] : List Octet).length ≤ (boot []).bufcap ∧
    hasRoom (boot []).txcap (frameOctets 0x9 true (if Role.server = .client then some ⟨1, 1, 1, 1⟩ else none) [1, 2]).length ∧
    hasRoom (boot []).txcap (frameOctets 0x9 true (if Role.client = .client then some ⟨1, 1, 1, 1⟩ else none) [1, 2]).length ∧
    (noError (client [0x89, 0x02, 1, 2]) ∧ rxreq (client [0x89, 0x02, 1, 2]).ctrl = false ∧
      (client [0x89, 0x02, 1, 2]).rxs = frameOctets 0x9 true none [1, 2] ++ []) ∧
    (boot [0x89, 0x82, 1, 1, 1, 1, 0, 3]).rxs = frameOctets 0x9 true (some ⟨1, 1, 1, 1⟩) [1, 2] ++ [] := by decide

/-- Q5. -/
theorem wit_ContinuationIsUnsupported : noError (boot [0x80, 0x85, 0x37, 0xFA, 0x21, 0x3D, 0x7F, 0x9F, 0x4D, 0x51, 0x58]) ∧
    (boot [0x80, 0x85, 0x37, 0xFA, 0x21, 0x3D, 0x7F, 0x9F, 0x4D, 0x51, 0x58]).rxs =
      frameOctets 0 true (some ⟨0x37, 0xFA, 0x21, 0x3D⟩) [0x48, 0x65, 0x6C, 0x6C, 0x6F] ++ [] := by decide

/-- At the edges: 126 octets, a Close of 1 octet, the opcodes around the named ones. -/
theorem wit_DispatchChecksControlFrames : 125 < (126 : U64).toNat ∧ (1 : U64).toNat < 2 ∧
    (3 ≤ (3 : BitVec 7).toNat ∧ (7 : BitVec 7).toNat ≤ 7) ∧ (11 ≤ (11 : BitVec 7).toNat ∧ (15 : BitVec 7).toNat ≤ 15) := by decide

theorem wit_ResponseOctets : Response.err 9 ≠ .err 0 ∧ Response.ok ≠ .err 0 ∧
    responseOctets (.err 9) = responseOctets (.err 9) := by decide

end Sys2Proof.Machine.Tests
end

section
/-! SUPPORT. What one instruction can do: `exec` is the body of the instruction inside the frame that all instructions share,
and `Effect` lists the changes that a body can make before the block answers. Every frame and every invariant below is a case
analysis of `Effect`. -/

namespace Sys2Proof.Machine

/-! ### exec as a body in a frame -/

/-- The octets that stand at the front of RXS when the instruction begins: a wire row's own field; none for a command. -/
def wireOctets (i : Instr) : List Octet := if i.space = .command then [] else encode i

/-- The instructions that run while an error is latched (R279). -/
def runsInErrorState : Instr → Bool
  | .rdreg _ => true
  | .reset => true
  | _ => false

/-- The pseudocode of each instruction, the frame of `operate` taken off. -/
def bodyOf : Instr → State → State × Ending
  | .dechdr => dechdrBody
  | .enchdr opc fin => enchdrBody opc fin
  | .declen => declenBody
  | .enclen rsv m len => enclenBody rsv m len
  | .ldkey => ldkeyBody
  | .setkey k0 k1 k2 k3 => setkeyBody ⟨k0, k1, k2, k3⟩
  | .stkey => stkeyBody
  | .applymask a n => applymaskBody a n
  | .ldbuf a n => ldbufBody a n
  | .stbuf a n => stbufBody a n
  | .wrbuf a v => wrbufBody a.toNat v
  | .rdbuf a => rdbufBody a
  | .rdreg r => rdregBody r
  | .wrreg r v => wrregBody r v
  | .reset => resetBody
  | i =>
    match i.space with
    | .command => reservedBody
    | .w0 => dechdrBody
    | .w1 => declenBody

@[simp] theorem wireOctets_command {i : Instr} (h : i.space = .command) : wireOctets i = [] := if_pos h

@[simp] theorem arrive_nil (s : State) : arrive s [] = s := rfl

/-- An instruction that heeds the latch is its body run by `operate`, its wire octets arrived. -/
theorem exec_eq_operate {i : Instr} (h : runsInErrorState i = false) (s : State) :
    exec i s = operate (arrive s (wireOctets i)) (bodyOf i) := by
  cases i with
  | rdreg r => cases h
  | reset => cases h
  | _ => rfl

/-- `RDREG` and `RESET` run their bodies whatever is latched. -/
theorem exec_of_runsInErrorState {i : Instr} (h : runsInErrorState i = true) (s : State) :
    exec i s = .next (conclude (bodyOf i (arrive s (wireOctets i)))) := by
  cases i with
  | rdreg r => rfl
  | reset => rfl
  | _ => cases h

/-- The body runs when no error is latched. -/
theorem exec_of_noError {s : State} (h : noError s) (i : Instr) :
    exec i s = .next (conclude (bodyOf i (arrive s (wireOctets i)))) := by
  cases hi : runsInErrorState i with
  | true => exact exec_of_runsInErrorState hi s
  | false => rw [exec_eq_operate hi, operate_of_noError (s := arrive s (wireOctets i)) h]

/-- The body does not run when an error is latched and the instruction heeds it. -/
theorem exec_of_errorState {s : State} (h : errorState s) {i : Instr} (hi : runsInErrorState i = false) :
    exec i s = .next (refuse (arrive s (wireOctets i))) := by
  rw [exec_eq_operate hi, operate_of_errorState (s := arrive s (wireOctets i)) h, refuse]

/-! ### What a body can change -/

/-- `rest` is what the instruction leaves of RXS: a suffix, and all of it when the instruction does not read the stream. -/
def takesRx (i : Instr) (s : State) (rest : List Octet) : Prop :=
  (∃ p, s.rxs = p ++ rest) ∧ (readsStream i = false → rest = s.rxs)

/-- `Effect i s u`: the body of `i`, run in `s`, can leave `u`. Each case carries the checks that were passed. -/
inductive Effect (i : Instr) (s : State) : State → Prop
  /-- No register, buffer or TX octet changes: a value answered, or an error raised. -/
  | consume (rest : List Octet) (hr : takesRx i s rest) : Effect i s { s with rxs := rest }
  /-- A leading octet is decoded (R132). -/
  | header (b : Octet) (rest : List Octet) (hi : decodesHeader i) (hb : b &&& 0x70 = 0) (hr : takesRx i s rest) :
      Effect i s (setHeader { s with rxs := rest } (b.extractLsb' 0 7) (b.getLsbD 7))
  /-- A length field is decoded (R153). -/
  | length (n : U64) (m : Bool) (rest : List Octet) (hi : decodesLength i) (hr : takesRx i s rest) :
      Effect i s (setLength { s with rxs := rest } n m)
  /-- A key is loaded, from the stream or from the operands (R171, R172). -/
  | key (k : Key) (rest : List Octet) (hi : loadsKey i = true) (hr : takesRx i s rest) :
      Effect i s (setKey { s with rxs := rest } k)
  /-- Octets are sent, all of them or as many as the TX stream takes (R69). -/
  | send (p : List Octet) (hi : writesStream i = true) (hp : hasRoom s.txcap p.length) :
      Effect i s { s with txs := s.txs ++ p, txcap := capacityAfter s.txcap p.length }
  /-- Octets are stored in BUF, inside the buffer and where the instruction stores (R67). -/
  | store (a : Nat) (p rest : List Octet) (hi : ∀ x, a ≤ x ∧ x < a + p.length → storesTo i x)
      (hc : a + p.length ≤ s.bufcap) (hr : takesRx i s rest) : Effect i s (setBuf { s with rxs := rest } a p)
  /-- The range of a failed `LDBUF` becomes unspecified (R190, U6). -/
  | spoil (a n : Nat) (hi : ∀ x, a ≤ x ∧ x < a + n → storesTo i x) (hc : a + n ≤ s.bufcap) (hr : takesRx i s []) :
      Effect i s (spoilRange { s with rxs := [] } a n)
  /-- CTRL is written with its reserved bits 0 (R211). -/
  | ctrl (r v : Octet) (hi : i = .wrreg r v) (hv : v.extractLsb' 1 7 = 0) : Effect i s (setCtrl s v)
  /-- The registers take their reset values (R212). -/
  | reset (hi : i = .reset) : Effect i s (resetRegisters s)

theorem readsStream_of_decodesHeader {i : Instr} (h : decodesHeader i) : readsStream i = true := by
  obtain rfl | h := h
  · rfl
  · unfold readsStream; split <;> simp [h]

theorem readsStream_of_decodesLength {i : Instr} (h : decodesLength i) : readsStream i = true := by
  obtain rfl | h := h
  · rfl
  · unfold readsStream; split <;> simp [h]

theorem takesRx_all (i : Instr) (s : State) : takesRx i s s.rxs := ⟨⟨[], rfl⟩, fun _ => rfl⟩

theorem takesRx_of_readsStream {i : Instr} {s : State} {p rest : List Octet} (hi : readsStream i = true) (h : s.rxs = p ++ rest) :
    takesRx i s rest := ⟨⟨p, h⟩, by simp [hi]⟩

theorem takesRx_drop {i : Instr} (hi : readsStream i = true) (s : State) (n : Nat) : takesRx i s (s.rxs.drop n) :=
  takesRx_of_readsStream hi (List.take_append_drop n s.rxs).symm

theorem takesRx_nil {i : Instr} (hi : readsStream i = true) (s : State) : takesRx i s [] :=
  takesRx_of_readsStream hi (List.append_nil s.rxs).symm

/-- A check that fails, or a value that is only read, changes nothing. -/
theorem Effect.none (i : Instr) (s : State) : Effect i s s := .consume s.rxs (takesRx_all i s)

/-! ### Each body has one of these effects -/

theorem dechdrBody_effect {i : Instr} (hi : decodesHeader i) (s : State) : Effect i s (dechdrBody s).1 := by
  have hrx := readsStream_of_decodesHeader hi
  obtain ⟨-, h⟩ | ⟨b, rest, hb, -, h⟩ | ⟨b, rest, hb, hz, h⟩ := dechdrBody_cases s <;> rw [h]
  · exact .none i s
  · exact .consume rest (takesRx_of_readsStream (p := [b]) hrx hb)
  · exact .header b rest hi hz (takesRx_of_readsStream (p := [b]) hrx hb)

theorem declenBody_effect {i : Instr} (hi : decodesLength i) (s : State) : Effect i s (declenBody s).1 := by
  have hrx := readsStream_of_decodesLength hi
  obtain ⟨_, rest, h, ⟨p, hp⟩, -⟩ | ⟨n, m, rest, h, p, hp⟩ := declenBody_cases s <;> rw [h]
  · exact .consume rest (takesRx_of_readsStream hrx hp)
  · exact .length n m rest hi (takesRx_of_readsStream hrx hp)

theorem send_effect {i : Instr} (hi : writesStream i = true) (s : State) (l : List Octet) : Effect i s (send s l).1 := by
  obtain ⟨hl, h⟩ | ⟨c, hc, hl, h⟩ := send_cases s l <;> rw [h]
  · exact .send l hi hl
  · have hp : (l.take c).length = c := by simp; omega
    simpa [hc, capacityAfter, hp] using Effect.send (s := s) (l.take c) hi (by rw [hc, hasRoom_octets, hp])

theorem ldkeyBody_effect (s : State) : Effect .ldkey s (ldkeyBody s).1 := by
  unfold ldkeyBody
  obtain ⟨-, h⟩ | ⟨-, h⟩ := rxRead_cases s 4 <;> rw [h]
  · exact .key _ _ rfl (takesRx_drop rfl s 4)
  · exact .consume [] (takesRx_nil rfl s)

theorem ldbufBody_effect (a n : U64) (s : State) : Effect (.ldbuf a n) s (ldbufBody a n s).1 := by
  unfold ldbufBody
  split
  · next hc =>
    obtain ⟨hn, h⟩ | ⟨-, h⟩ := rxRead_cases s n.toNat <;> rw [h]
    · have hp : (s.rxs.take n.toNat).length = n.toNat := by simp [hn]
      exact .store _ _ _ (by simp [storesTo, hp]) (by rwa [hp]) (takesRx_drop rfl s n.toNat)
    · exact .spoil _ _ (fun x hx => hx) hc (takesRx_nil rfl s)
  · exact .none _ s

theorem applymaskBody_effect (a n : U64) (s : State) : Effect (.applymask a n) s (applymaskBody a n s).1 := by
  unfold applymaskBody
  split
  · exact .none _ s
  · split
    · next hc => exact .store _ _ _ (by simp [storesTo]) (by simpa using hc) (takesRx_all _ s)
    · exact .none _ s

theorem wrbufBody_effect (a : U64) (v : Octet) (s : State) : Effect (.wrbuf a v) s (wrbufBody a.toNat v s).1 := by
  unfold wrbufBody
  split
  · next hc => exact .store _ [v] _ (by simp only [storesTo, List.length_singleton]; omega) hc (takesRx_all _ s)
  · exact .none _ s

theorem rdbufBody_effect (a : U64) (s : State) : Effect (.rdbuf a) s (rdbufBody a s).1 := by
  unfold rdbufBody; split <;> exact .none _ s

theorem rdregBody_effect (r : Octet) (s : State) : Effect (.rdreg r) s (rdregBody r s).1 := by
  unfold rdregBody; split <;> exact .none _ s

theorem wrregBody_effect (r v : Octet) (s : State) : Effect (.wrreg r v) s (wrregBody r v s).1 := by
  unfold wrregBody
  split
  · exact .none _ s
  · split
    · exact .none _ s
    · next hv => exact .ctrl r v rfl (not_not.1 hv)

theorem enchdrBody_effect (opc : BitVec 7) (fin : Bool) (s : State) : Effect (.enchdr opc fin) s (enchdrBody opc fin s).1 := by
  unfold enchdrBody
  split
  · exact .none _ s
  · exact send_effect rfl s _

theorem enclenBody_effect (rsv : BitVec 7) (m : Bool) (len : U64) (s : State) :
    Effect (.enclen rsv m len) s (enclenBody rsv m len s).1 := by
  unfold enclenBody
  split
  · exact .none _ s
  · exact send_effect rfl s _

theorem stkeyBody_effect (s : State) : Effect .stkey s (stkeyBody s).1 := by
  unfold stkeyBody
  split
  · exact .none _ s
  · exact send_effect rfl s _

theorem stbufBody_effect (a n : U64) (s : State) : Effect (.stbuf a n) s (stbufBody a n s).1 := by
  unfold stbufBody
  split
  · exact send_effect rfl s _
  · exact .none _ s

/-- The body of an instruction of any row leaves one of the listed effects. -/
theorem bodyOf_effect (i : Instr) (s : State) : Effect i s (bodyOf i s).1 := by
  cases i with
  | dechdr => exact dechdrBody_effect (.inl rfl) s
  | enchdr opc fin => exact enchdrBody_effect opc fin s
  | declen => exact declenBody_effect (.inl rfl) s
  | enclen rsv m len => exact enclenBody_effect rsv m len s
  | ldkey => exact ldkeyBody_effect s
  | setkey k0 k1 k2 k3 => exact .key _ _ rfl (takesRx_all _ s)
  | stkey => exact stkeyBody_effect s
  | applymask a n => exact applymaskBody_effect a n s
  | ldbuf a n => exact ldbufBody_effect a n s
  | stbuf a n => exact stbufBody_effect a n s
  | wrbuf a v => exact wrbufBody_effect a v s
  | rdbuf a => exact rdbufBody_effect a s
  | rdreg r => exact rdregBody_effect r s
  | wrreg r v => exact wrregBody_effect r v s
  | reset => exact .reset rfl
  | reserved00 | reserved10 | reserved20 | reserved40 | reserved80 => exact .none _ s
  | w1Inline00 | w1Inline40 | w1Inline60 | w1Inline70 | w1Inline78 | w1Inline7C | w1Ext16 | w1Ext64 =>
    exact declenBody_effect (.inr rfl) s
  | _ => exact dechdrBody_effect (.inr rfl) s

/-- Everything `exec` can do: refuse under a latched error, or carry out an effect and conclude. -/
theorem exec_cases {i : Instr} {s t : State} (h : exec i s = .next t) :
    (errorState s ∧ runsInErrorState i = false ∧ t = refuse (arrive s (wireOctets i))) ∨
    (∃ u e, Effect i (arrive s (wireOctets i)) u ∧ t = conclude (u, e)) := by
  have ran : exec i s = .next (conclude (bodyOf i (arrive s (wireOctets i)))) →
      ∃ u e, Effect i (arrive s (wireOctets i)) u ∧ t = conclude (u, e) := fun hx =>
    ⟨_, _, bodyOf_effect i _, Host.Outcome.next.inj (h.symm.trans hx)⟩
  by_cases hs : noError s
  · exact .inr (ran (exec_of_noError hs i))
  · cases hi : runsInErrorState i with
    | true => exact .inr (ran (exec_of_runsInErrorState hi s))
    | false => exact .inl ⟨hs, rfl, Host.Outcome.next.inj (h.symm.trans (exec_of_errorState hs hi))⟩

/-! ### The answer: what concluding and refusing leave alone -/

@[simp] theorem conclude_opc (r : State × Ending) : (conclude r).opc = r.1.opc := by
  obtain ⟨s, e⟩ := r; cases e <;> simp [raise]

@[simp] theorem conclude_fin (r : State × Ending) : (conclude r).fin = r.1.fin := by
  obtain ⟨s, e⟩ := r; cases e <;> simp [raise]

@[simp] theorem conclude_masked (r : State × Ending) : (conclude r).masked = r.1.masked := by
  obtain ⟨s, e⟩ := r; cases e <;> simp [raise]

@[simp] theorem conclude_len (r : State × Ending) : (conclude r).len = r.1.len := by
  obtain ⟨s, e⟩ := r; cases e <;> simp [raise]

@[simp] theorem conclude_key (r : State × Ending) : (conclude r).key = r.1.key := by
  obtain ⟨s, e⟩ := r; cases e <;> simp [raise]

@[simp] theorem conclude_ctrl (r : State × Ending) : (conclude r).ctrl = r.1.ctrl := by
  obtain ⟨s, e⟩ := r; cases e <;> simp [raise]

@[simp] theorem conclude_buf (r : State × Ending) : (conclude r).buf = r.1.buf := by
  obtain ⟨s, e⟩ := r; cases e <;> simp [raise]

@[simp] theorem conclude_bufcap (r : State × Ending) : (conclude r).bufcap = r.1.bufcap := by
  obtain ⟨s, e⟩ := r; cases e <;> simp [raise]

@[simp] theorem conclude_rxs (r : State × Ending) : (conclude r).rxs = r.1.rxs := by
  obtain ⟨s, e⟩ := r; cases e <;> simp [raise]

@[simp] theorem conclude_txs (r : State × Ending) : (conclude r).txs = r.1.txs := by
  obtain ⟨s, e⟩ := r; cases e <;> simp [raise]

@[simp] theorem conclude_txcap (r : State × Ending) : (conclude r).txcap = r.1.txcap := by
  obtain ⟨s, e⟩ := r; cases e <;> simp [raise]

@[simp] theorem conclude_port (r : State × Ending) : (conclude r).port = r.1.port := by
  obtain ⟨s, e⟩ := r; cases e <;> simp [raise]

/-- Concluding leaves STATUS alone, or latches a code into a clear STATUS.ERR and answers it (R278). -/
theorem conclude_status (r : State × Ending) :
    (conclude r).status = r.1.status ∨
    (noError r.1 ∧ ∃ e, (conclude r).status = withErr r.1.status (errorCode e) ∧
      (conclude r).responses = r.1.responses ++ [.err (errorCode e)]) := by
  obtain ⟨s, e⟩ := r
  cases e with
  | ok => exact .inl rfl
  | value v => exact .inl rfl
  | error e =>
    by_cases hs : noError s
    · exact .inr ⟨hs, e, by simp [raise_of_noError hs], by simp [raise_of_noError hs]⟩
    · exact .inl (by simp [raise_of_errorState hs])

@[simp] theorem hdrvOf_conclude (r : State × Ending) : hdrvOf (conclude r).status = hdrvOf r.1.status := by
  obtain h | ⟨-, e, h, -⟩ := conclude_status r <;> simp [h]

@[simp] theorem lenvOf_conclude (r : State × Ending) : lenvOf (conclude r).status = lenvOf r.1.status := by
  obtain h | ⟨-, e, h, -⟩ := conclude_status r <;> simp [h]

@[simp] theorem keyvOf_conclude (r : State × Ending) : keyvOf (conclude r).status = keyvOf r.1.status := by
  obtain h | ⟨-, e, h, -⟩ := conclude_status r <;> simp [h]

@[simp] theorem bit7_conclude (r : State × Ending) : (conclude r).status[7] = r.1.status[7] := by
  obtain h | ⟨-, e, h, -⟩ := conclude_status r <;> simp [h]

end Sys2Proof.Machine
end

section
/-! SUPPORT. The invariant: each update of the state keeps it, so every effect does, and so does every step. -/

namespace Sys2Proof.Machine

/-- A leading octet with its reserved bits 0 has its opcode in its low four bits (R22, R37). -/
theorem opcode_of_legal_octet {b : Octet} (h : b &&& 0x70 = 0) : b.extractLsb' 0 7 = (b.extractLsb' 0 4).setWidth 7 := by
  have bit (k : Nat) : (b &&& 0x70).getLsbD k = false := by rw [h]; simp
  have h4 : b[4] = false := by simpa using bit 4
  have h5 : b[5] = false := by simpa using bit 5
  have h6 : b[6] = false := by simpa using bit 6
  ext k hk
  interval_cases k <;> simp [h4, h5, h6]

/-! ### Updates that the invariant does not see, or that keep it -/

theorem Inv.respond {s : State} (h : Inv s) (r : Response) : Inv (respond s r) := { h with }

theorem Inv.setRxs {s : State} (h : Inv s) (l : List Octet) : Inv { s with rxs := l } := { h with }

theorem Inv.setPort {s : State} (h : Inv s) (q : List (List Octet)) : Inv { s with port := q } := { h with }

theorem Inv.setTx {s : State} (h : Inv s) (l : List Octet) (c : Capacity) : Inv { s with txs := l, txcap := c } := { h with }

theorem Inv.setHeader {s : State} (h : Inv s) {opc : BitVec 7} (hopc : opc.toNat ≤ 15) (fin : Bool) :
    Inv (setHeader s opc fin) :=
  { h with
    opcLow := hopc
    statusReserved := by simpa using h.statusReserved
    errLegal := by simpa using h.errLegal
    headerValid := by simp
    lengthValid := by simpa using h.lengthValid
    keyValid := by simpa using h.keyValid }

theorem Inv.setLength {s : State} (h : Inv s) (n : U64) (m : Bool) : Inv (setLength s n m) :=
  { h with
    statusReserved := by simpa using h.statusReserved
    errLegal := by simpa using h.errLegal
    headerValid := by simpa using h.headerValid
    lengthValid := by simp
    keyValid := by simpa using h.keyValid }

theorem Inv.setKey {s : State} (h : Inv s) (k : Key) : Inv (setKey s k) :=
  { h with
    statusReserved := by simpa using h.statusReserved
    errLegal := by simpa using h.errLegal
    headerValid := by simpa using h.headerValid
    lengthValid := by simpa using h.lengthValid
    keyValid := by simp }

theorem Inv.setCtrl {s : State} (h : Inv s) {v : Octet} (hv : v.extractLsb' 1 7 = 0) : Inv (setCtrl s v) :=
  { h with ctrlReserved := hv }

/-- A write inside the buffer keeps BUF canonical and inside BUFCAP. -/
theorem Inv.setBuf {s : State} (h : Inv s) {a : Nat} {p : List Octet} (hc : a + p.length ≤ s.bufcap) : Inv (setBuf s a p) :=
  { h with
    bufSorted := writeList_wf h.bufSorted a p
    bufBounded := fun _ hcell => (mem_writeList hcell).elim (fun hin => hin.2.trans_le hc) (h.bufBounded _) }

theorem Inv.spoilRange {s : State} (h : Inv s) {a n : Nat} (hc : a + n ≤ s.bufcap) : Inv (spoilRange s a n) :=
  have hb : Inv (Machine.setBuf s a (freeOctets s.draws a n)) := h.setBuf (by simpa using hc)
  { hb with }

/-- The reset values are legal, whatever the registers held. -/
theorem Inv.resetRegisters {s : State} (h : Inv s) : Inv (resetRegisters s) :=
  { h with
    opcLow := by simp
    ctrlReserved := (by decide : (0x01 : Octet).extractLsb' 1 7 = 0)
    statusReserved := by simp
    errLegal := (by decide : (errOf 0x00).toNat ≤ 9)
    headerValid := fun _ => ⟨rfl, rfl⟩
    lengthValid := fun _ => ⟨rfl, rfl⟩
    keyValid := fun _ => rfl }

theorem Inv.withErr {s : State} (h : Inv s) (e : ErrorCode) : Inv { s with status := withErr s.status (errorCode e) } :=
  { h with
    statusReserved := by simpa using h.statusReserved
    errLegal := by simpa using errorCode_le_nine e
    headerValid := by simpa using h.headerValid
    lengthValid := by simpa using h.lengthValid
    keyValid := by simpa using h.keyValid }

theorem Inv.raise {s : State} (h : Inv s) (e : ErrorCode) : Inv (raise s e) := by
  by_cases hs : noError s
  · rw [Machine.raise, latch_of_noError hs]; exact (h.withErr e).respond _
  · rw [raise_of_errorState hs]; exact h.respond _

theorem Inv.conclude {s : State} (h : Inv s) (e : Ending) : Inv (conclude (s, e)) := by
  cases e with
  | ok => exact h.respond _
  | value v => exact h.respond _
  | error e => exact h.raise e

/-- Every effect of an instruction keeps the invariant. -/
theorem Inv.effect {i : Instr} {s u : State} (h : Inv s) (hu : Effect i s u) : Inv u := by
  cases hu with
  | consume rest => exact h.setRxs rest
  | header b rest _ hb =>
    refine (h.setRxs rest).setHeader ?_ _
    rw [opcode_of_legal_octet hb]
    simp; omega
  | length n m rest => exact (h.setRxs rest).setLength n m
  | key k rest => exact (h.setRxs rest).setKey k
  | send p => exact h.setTx _ _
  | store a p rest _ hc => exact (h.setRxs rest).setBuf hc
  | spoil a n _ hc => exact (h.setRxs []).spoilRange hc
  | ctrl r v _ hv => exact h.setCtrl hv
  | reset => exact h.resetRegisters

theorem exec_keeps_inv {i : Instr} {s t : State} (h : Inv s) (ht : exec i s = .next t) : Inv t := by
  have hs : Inv (arrive s (wireOctets i)) := h.setRxs _
  obtain ⟨-, -, rfl⟩ | ⟨u, e, hu, rfl⟩ := exec_cases ht
  · exact hs.respond _
  · exact (hs.effect hu).conclude e

/-- A step idles, or executes one delivered command, or has no next state (R100). -/
theorem step_cases {s t : State} (h : step s = .next t) :
    t = s ∨ ∃ i p rest, s.port = p :: rest ∧ decodeCommand p = .ok i ∧ exec i { s with port := rest } = .next t := by
  unfold step at h
  split at h
  · exact .inl (Host.Outcome.next.inj h).symm
  · next p rest hp =>
    split at h
    · next i hi => exact .inr ⟨i, p, rest, hp, hi, h⟩
    · cases h

/-- Settles O51: a step is idle or an `exec`, and each effect of an `exec` keeps the invariant. -/
theorem stepKeepsInv : Obligations.StepKeepsInv := by
  intro s t h hstep
  obtain rfl | ⟨i, _, rest, -, -, hexec⟩ := step_cases hstep
  · exact h
  · exact exec_keeps_inv (h.setPort rest) hexec

/-- Settles O49: every clause is a stated reset value (R40). -/
theorem resetState : Obligations.ResetState :=
  ⟨rfl, rfl, rfl, rfl, rfl, rfl, by decide, rfl, by decide, rfl⟩

/-- Settles O50: BUF is empty at reset, BUFCAP is bounded by its type, and every register holds its reset value. -/
theorem resetSatisfiesInv : Obligations.ResetSatisfiesInv where
  bufSorted := List.Pairwise.nil
  bufBounded := by simp [State.reset]
  bufcapBound := Nat.le_of_lt_succ Config.bufcapBounded.isLt
  opcLow := by decide
  ctrlReserved := by decide
  statusReserved := by decide
  errLegal := by decide
  headerValid := fun _ => ⟨rfl, rfl⟩
  lengthValid := fun _ => ⟨rfl, rfl⟩
  keyValid := fun _ => rfl

end Sys2Proof.Machine
end

section
/-! SUPPORT. The frames of the state: which instructions change which part of it, each a case analysis of `Effect`. -/

namespace Sys2Proof.Machine

/-- Settles O43: each register is written by one effect, whose guard names the instructions that have it. -/
theorem registerFrame : Obligations.RegisterFrame := by
  intro i s t h
  obtain ⟨-, -, rfl⟩ | ⟨u, e, hu, rfl⟩ := exec_cases h
  · simp [refuse]
  · cases hu with
    | consume | send | store | spoil => simp
    | header _ _ hi => simp [hi]
    | length _ _ _ hi => simp [hi]
    | key _ _ hi => simp [hi]
    | ctrl r v hi => simp [hi]
    | reset hi => simp [hi]

/-- Settles O44: an effect other than RESET's leaves a valid bit alone or sets it. -/
theorem validBitsOnlyResetClears : Obligations.ValidBitsOnlyResetClears := by
  intro i s t hreset h
  obtain ⟨-, -, rfl⟩ | ⟨u, e, hu, rfl⟩ := exec_cases h
  · simp [refuse]
  · cases hu with
    | reset hi => exact absurd hi hreset
    | _ => simp

/-- No effect but RESET's changes STATUS.ERR. -/
theorem Effect.err {i : Instr} {s u : State} (hu : Effect i s u) (hreset : i ≠ .reset) : errOf u.status = errOf s.status := by
  cases hu with
  | reset hi => exact absurd hi hreset
  | _ => simp

/-- No effect is a response: the block answers when the body has ended. -/
theorem Effect.responses {i : Instr} {s u : State} (hu : Effect i s u) : u.responses = s.responses := by
  cases hu <;> rfl

/-- Settles O40: the body leaves STATUS.ERR alone, and the conclusion writes it only while it is 0, with the code it answers. -/
theorem firstErrorStays : Obligations.FirstErrorStays := by
  intro i s t hreset h
  obtain ⟨-, -, rfl⟩ | ⟨u, e, hu, rfl⟩ := exec_cases h
  · exact ⟨fun _ => rfl, .inl⟩
  · have herr : errOf u.status = errOf s.status := hu.err hreset
    obtain hst | ⟨hno, c, hst, hresp⟩ := conclude_status (u, e)
    · rw [hst, herr]
      exact ⟨fun _ => rfl, .inl⟩
    · refine ⟨fun hs => absurd (herr ▸ hno) hs, fun _ => .inr ?_⟩
      have hpos : (errorCode c).toNat ≠ 0 := fun h0 => errorCode_ne_zero c (BitVec.eq_of_toNat_eq h0)
      rw [hst, errOf_withErr, hresp, hu.responses]
      exact ⟨rfl, Nat.one_le_iff_ne_zero.2 hpos, errorCode_le_nine c⟩

/-- Settles O45: BUF is written by two effects, each inside the range that the instruction names. -/
theorem bufferFrame : Obligations.BufferFrame := by
  intro i s t h x hx
  obtain ⟨-, -, rfl⟩ | ⟨u, e, hu, rfl⟩ := exec_cases h
  · rfl
  · rw [bufRead_congr (conclude_buf (u, e))]
    cases hu with
    | store a p rest hi => exact bufRead_writeList_outside rfl fun hin => hx (hi x hin)
    | spoil a n hi => exact bufRead_writeList_outside rfl fun hin => hx (hi x (by simpa using hin))
    | _ => rfl

/-! ### The streams -/

/-- An instruction that does not read the RX stream has no octets on it of its own: it is a command. -/
theorem wireOctets_of_not_readsStream {i : Instr} (h : readsStream i = false) : wireOctets i = [] := by
  refine wireOctets_command ?_
  cases hi : i.space with
  | command => rfl
  | w0 => simp [readsStream_of_decodesHeader (.inr hi)] at h
  | w1 => simp [readsStream_of_decodesLength (.inr hi)] at h

/-- An effect takes octets from the front of RXS, and none when the instruction does not read the stream. -/
theorem Effect.rx {i : Instr} {s u : State} (hu : Effect i s u) : takesRx i s u.rxs := by
  cases hu with
  | consume _ hr | header _ _ _ _ hr | length _ _ _ _ hr | key _ _ _ hr | store _ _ _ _ _ hr | spoil _ _ _ _ hr => exact hr
  | send | ctrl | reset => exact takesRx_all i s

/-- `t` has sent `p` in addition to what `s` has, and TXCAP accounts for it (R69). -/
def sentMore (s t : State) (p : List Octet) : Prop :=
  t.txs = s.txs ++ p ∧ (s.txcap = .unlimited → t.txcap = .unlimited) ∧
    ∀ c, s.txcap = .octets c → p.length ≤ c ∧ t.txcap = .octets (c - p.length)

theorem sentMore_nil {s t : State} (htxs : t.txs = s.txs) (hcap : t.txcap = s.txcap) : sentMore s t [] := by
  simp [sentMore, htxs, hcap]

theorem sentMore_of_hasRoom {s t : State} {p : List Octet} (hp : hasRoom s.txcap p.length) (htxs : t.txs = s.txs ++ p)
    (hcap : t.txcap = capacityAfter s.txcap p.length) : sentMore s t p := by
  refine ⟨htxs, fun h => by rw [hcap, h, capacityAfter], fun c h => ?_⟩
  rw [h] at hp hcap
  exact ⟨(hasRoom_octets c _).1 hp, hcap⟩

/-- An effect sends octets, and none when the instruction does not write the TX stream. -/
theorem Effect.tx {i : Instr} {s u : State} (hu : Effect i s u) :
    (writesStream i = false → u.txs = s.txs ∧ u.txcap = s.txcap) ∧ ∃ p, sentMore s u p := by
  cases hu with
  | send p hi hp => exact ⟨by simp [hi], p, sentMore_of_hasRoom hp rfl rfl⟩
  | _ => exact ⟨fun _ => ⟨rfl, rfl⟩, [], sentMore_nil rfl rfl⟩

/-- Settles O46: the RX side is `Effect.rx`, the TX side `Effect.tx`; the answer touches neither stream. -/
theorem streamFrame : Obligations.StreamFrame := by
  intro i s t h
  obtain ⟨-, -, rfl⟩ | ⟨u, e, hu, rfl⟩ := exec_cases h
  · exact ⟨fun hi => by simp [refuse, wireOctets_of_not_readsStream hi], fun hi => ⟨[], by simp [refuse, hi]⟩,
      fun _ => ⟨rfl, rfl⟩, [], sentMore_nil rfl rfl⟩
  · obtain ⟨⟨p, hp⟩, hall⟩ := hu.rx
    obtain ⟨hquiet, htx⟩ := hu.tx
    simp only [conclude_rxs, conclude_txs, conclude_txcap]
    refine ⟨fun hi => ?_, fun hi => ⟨p, ?_⟩, hquiet, htx⟩
    · simpa [wireOctets_of_not_readsStream hi] using hall hi
    · simpa [hi] using hp

end Sys2Proof.Machine
end

section
/-! SUPPORT. No lookahead (R36): a body that does not run short does the same on a longer RX stream. The tests and the sends of
the pseudocode do not see RXS, and `RxRead` sees only what it takes. -/

namespace Sys2Proof.Machine

/-- The state with further octets behind those that RXS holds. -/
def moreRx (x : List Octet) (s : State) : State := { s with rxs := s.rxs ++ x }

/-- The body does the same with more octets behind RXS, unless it runs short. -/
def looksNoFurther (body : State → State × Ending) : Prop :=
  ∀ (s : State) (x : List Octet), (body s).2 = .error .rxShort ∨ body (moreRx x s) = Prod.map (moreRx x) id (body s)

/-! ### The pieces that bodies are made of -/

/-- A body that leaves RXS alone, and whose ending does not depend on it. -/
theorem looksNoFurther_pure {f : State → State} {e : State → Ending} (hf : ∀ s x, f (moreRx x s) = moreRx x (f s))
    (he : ∀ s x, e (moreRx x s) = e s) : looksNoFurther fun s => (f s, e s) := fun s x =>
  .inr (Prod.ext (hf s x) (he s x))

/-- An error raised with nothing changed. -/
theorem looksNoFurther_error (e : ErrorCode) : looksNoFurther fun s => (s, .error e) :=
  looksNoFurther_pure (fun _ _ => rfl) fun _ _ => rfl

/-- A test that does not depend on RXS. -/
theorem looksNoFurther_ite {P : State → Prop} [DecidablePred P] {yes no : State → State × Ending}
    (hP : ∀ s x, P (moreRx x s) ↔ P s) (hyes : looksNoFurther yes) (hno : looksNoFurther no) :
    looksNoFurther fun s => if P s then yes s else no s := by
  intro s x
  simp only [hP s x]
  split
  · exact hyes s x
  · exact hno s x

/-- A send of octets that do not depend on RXS. -/
theorem looksNoFurther_send {l : State → List Octet} (hl : ∀ s x, l (moreRx x s) = l s) :
    looksNoFurther fun s => send s (l s) := by
  intro s x
  refine .inr ?_
  simp only [hl]
  obtain ⟨hroom, h⟩ | ⟨c, hc, hshort, h⟩ := send_cases s (l s)
  · rw [h, send_room (s := moreRx x s) hroom]; rfl
  · rw [h, send_short (s := moreRx x s) hc hshort]; rfl

/-- `RxRead` runs short, or takes the same octets from a longer stream. -/
theorem rxRead_moreRx (s : State) (n : Nat) (x : List Octet) :
    rxRead s n = (none, { s with rxs := [] }) ∨
    ∃ p u, rxRead s n = (some p, u) ∧ rxRead (moreRx x s) n = (some p, moreRx x u) := by
  obtain ⟨hn, h⟩ | ⟨-, h⟩ := rxRead_cases s n
  · refine .inr ⟨_, _, h, ?_⟩
    rw [rxRead_enough (by simp [moreRx]; omega)]
    simp [moreRx, List.take_append_of_le_length hn, List.drop_append_of_le_length hn]
  · exact .inl h

theorem bufSlice_moreRx (s : State) (a n : Nat) (x : List Octet) : bufSlice (moreRx x s) a n = bufSlice s a n :=
  bufSlice_congr (s := s) (t := moreRx x s) rfl a n

/-! ### The bodies -/

theorem dechdrBody_looksNoFurther : looksNoFurther dechdrBody := by
  intro s x
  obtain h | ⟨p, u, h, hx⟩ := rxRead_moreRx s 1 x
  · exact .inl (by simp only [dechdrBody, h])
  · refine .inr ?_
    simp only [dechdrBody, h, hx]
    cases unpackHeader (octetAt p 0) <;> rfl

theorem readExtension_looksNoFurther (m : Bool) (n : Nat) (value : List Octet → U64) :
    looksNoFurther fun s => readExtension s m n value := by
  intro s x
  obtain h | ⟨p, u, h, hx⟩ := rxRead_moreRx s n x
  · exact .inl (by simp only [readExtension, h])
  · exact .inr (by simp only [readExtension, h, hx]; rfl)

theorem decodeLength_looksNoFurther (m : Bool) (c : BitVec 7) : looksNoFurther fun s => decodeLength s m c :=
  looksNoFurther_ite (fun _ _ => .rfl) (looksNoFurther_error _) <|
    looksNoFurther_ite (fun _ _ => .rfl) (readExtension_looksNoFurther m 2 _) <|
      looksNoFurther_ite (fun _ _ => .rfl) (readExtension_looksNoFurther m 8 _) <|
        looksNoFurther_pure (fun _ _ => rfl) fun _ _ => rfl

theorem declenBody_looksNoFurther : looksNoFurther declenBody := by
  intro s x
  obtain h | ⟨p, u, h, hx⟩ := rxRead_moreRx s 1 x
  · exact .inl (by simp only [declenBody, h])
  · simp only [declenBody, h, hx]
    exact decodeLength_looksNoFurther _ _ u x

theorem ldkeyBody_looksNoFurther : looksNoFurther ldkeyBody := by
  intro s x
  obtain h | ⟨p, u, h, hx⟩ := rxRead_moreRx s 4 x
  · exact .inl (by simp only [ldkeyBody, h])
  · exact .inr (by simp only [ldkeyBody, h, hx]; rfl)

theorem ldbufBody_looksNoFurther (a n : U64) : looksNoFurther (ldbufBody a n) := by
  refine looksNoFurther_ite (fun _ _ => .rfl) (fun s x => ?_) (looksNoFurther_error _)
  obtain h | ⟨p, u, h, hx⟩ := rxRead_moreRx s n.toNat x
  · exact .inl (by simp only [h])
  · exact .inr (by simp only [h, hx]; rfl)

theorem enchdrBody_looksNoFurther (opc : BitVec 7) (fin : Bool) : looksNoFurther (enchdrBody opc fin) :=
  looksNoFurther_ite (fun _ _ => .rfl) (looksNoFurther_error _) (looksNoFurther_send fun _ _ => rfl)

theorem enclenBody_looksNoFurther (rsv : BitVec 7) (m : Bool) (len : U64) : looksNoFurther (enclenBody rsv m len) :=
  looksNoFurther_ite (fun _ _ => .rfl) (looksNoFurther_error _) (looksNoFurther_send fun _ _ => rfl)

theorem stkeyBody_looksNoFurther : looksNoFurther stkeyBody :=
  looksNoFurther_ite (fun _ _ => .rfl) (looksNoFurther_error _) (looksNoFurther_send fun _ _ => rfl)

theorem stbufBody_looksNoFurther (a n : U64) : looksNoFurther (stbufBody a n) :=
  looksNoFurther_ite (fun _ _ => .rfl) (looksNoFurther_send fun s x => bufSlice_moreRx s _ _ x) (looksNoFurther_error _)

theorem applymaskBody_looksNoFurther (a n : U64) : looksNoFurther (applymaskBody a n) := by
  refine looksNoFurther_ite (fun _ _ => .rfl) (looksNoFurther_error _) <|
    looksNoFurther_ite (fun _ _ => .rfl) (looksNoFurther_pure (fun s x => ?_) fun _ _ => rfl) (looksNoFurther_error _)
  rw [bufSlice_moreRx]; rfl

theorem wrbufBody_looksNoFurther (a : Nat) (v : Octet) : looksNoFurther (wrbufBody a v) :=
  looksNoFurther_ite (fun _ _ => .rfl) (looksNoFurther_pure (fun _ _ => rfl) fun _ _ => rfl) (looksNoFurther_error _)

theorem rdbufBody_looksNoFurther (a : U64) : looksNoFurther (rdbufBody a) :=
  looksNoFurther_ite (fun _ _ => .rfl) (looksNoFurther_pure (fun _ _ => rfl) fun _ _ => rfl) (looksNoFurther_error _)

theorem rdregBody_looksNoFurther (r : Octet) : looksNoFurther (rdregBody r) := by
  intro s x
  have hreg : readRegister (moreRx x s) r = readRegister s r := rfl
  refine .inr ?_
  simp only [rdregBody, hreg]
  split <;> rfl

theorem wrregBody_looksNoFurther (r v : Octet) : looksNoFurther (wrregBody r v) :=
  looksNoFurther_ite (fun _ _ => .rfl) (looksNoFurther_error _) <|
    looksNoFurther_ite (fun _ _ => .rfl) (looksNoFurther_error _) <|
      looksNoFurther_pure (fun _ _ => rfl) fun _ _ => rfl

theorem bodyOf_looksNoFurther (i : Instr) : looksNoFurther (bodyOf i) := by
  cases i with
  | dechdr => exact dechdrBody_looksNoFurther
  | enchdr opc fin => exact enchdrBody_looksNoFurther opc fin
  | declen => exact declenBody_looksNoFurther
  | enclen rsv m len => exact enclenBody_looksNoFurther rsv m len
  | ldkey => exact ldkeyBody_looksNoFurther
  | setkey | reset => exact looksNoFurther_pure (fun _ _ => rfl) fun _ _ => rfl
  | stkey => exact stkeyBody_looksNoFurther
  | applymask a n => exact applymaskBody_looksNoFurther a n
  | ldbuf a n => exact ldbufBody_looksNoFurther a n
  | stbuf a n => exact stbufBody_looksNoFurther a n
  | wrbuf a v => exact wrbufBody_looksNoFurther a.toNat v
  | rdbuf a => exact rdbufBody_looksNoFurther a
  | rdreg r => exact rdregBody_looksNoFurther r
  | wrreg r v => exact wrregBody_looksNoFurther r v
  | reserved00 | reserved10 | reserved20 | reserved40 | reserved80 => exact looksNoFurther_error _
  | w1Inline00 | w1Inline40 | w1Inline60 | w1Inline70 | w1Inline78 | w1Inline7C | w1Ext16 | w1Ext64 =>
    exact declenBody_looksNoFurther
  | _ => exact dechdrBody_looksNoFurther

/-! ### The command as a whole -/

/-- The answer does not see RXS. -/
theorem conclude_moreRx (x : List Octet) (r : State × Ending) :
    conclude (Prod.map (moreRx x) id r) = moreRx x (conclude r) := by
  obtain ⟨s, e⟩ := r
  cases e with
  | ok => rfl
  | value v => rfl
  | error e =>
    change raise (moreRx x s) e = moreRx x (raise s e)
    by_cases hs : noError s
    · rw [raise_of_noError hs, raise_of_noError (s := moreRx x s) hs]; rfl
    · rw [raise_of_errorState hs, raise_of_errorState (s := moreRx x s) hs]; rfl

/-- A body that runs short is answered with `ERR(1)` (R272). -/
theorem conclude_bodyOf_rxShort {i : Instr} {s : State} (h : (bodyOf i s).2 = .error .rxShort) :
    (conclude (bodyOf i s)).responses = s.responses ++ [.err 1] := by
  have hconc : conclude (bodyOf i s) = raise (bodyOf i s).1 .rxShort := by rw [← conclude_error, ← h]
  simp [hconc, raise, errorCode, (bodyOf_effect i s).responses]

/-- Settles O47: a command that runs does not look further than it reads, and a refused one does not read. -/
theorem noLookahead : Obligations.NoLookahead := by
  intro i s t x hi h hlong
  change exec i (moreRx x s) = .next (moreRx x t)
  have ran (hexec : ∀ s', errOf s'.status = errOf s.status →
      exec i s' = .next (conclude (bodyOf i (arrive s' (wireOctets i))))) : exec i (moreRx x s) = .next (moreRx x t) := by
    rw [hexec s rfl, wireOctets_command hi, arrive_nil] at h
    rw [hexec (moreRx x s) rfl, wireOctets_command hi, arrive_nil]
    obtain rfl := Host.Outcome.next.inj h
    obtain hshort | hsame := bodyOf_looksNoFurther i s x
    · exact absurd (conclude_bodyOf_rxShort hshort) hlong
    · rw [hsame, conclude_moreRx]
  by_cases hs : noError s
  · exact ran fun s' hs' => exec_of_noError (hs'.trans hs) i
  · cases hrun : runsInErrorState i with
    | true => exact ran fun s' _ => exec_of_runsInErrorState hrun s'
    | false =>
      rw [exec_of_errorState hs hrun, wireOctets_command hi] at h
      rw [exec_of_errorState (s := moreRx x s) hs hrun, wireOctets_command hi]
      obtain rfl := Host.Outcome.next.inj h
      rfl

end Sys2Proof.Machine
end

section
/-! SUPPORT. Reading back a decoded header (R37). -/

namespace Sys2Proof.Machine

/-- The opcode of a legal leading octet has no bit above its low four (R22). -/
theorem opcode_reserved_bits {b : Octet} (h : b &&& 0x70 = 0) : (b.extractLsb' 0 7).extractLsb' 4 3 = 0 := by
  rw [opcode_of_legal_octet h]
  ext k hk
  interval_cases k <;> simp

/-- `DECHDR` on a legal leading octet, the block ready (R132). -/
theorem exec_dechdr_legal {s : State} (hs : noError s) {b : Octet} {rest : List Octet} (hrx : s.rxs = b :: rest)
    (hb : b &&& 0x70 = 0) :
    exec .dechdr s = .next (respond (setHeader { s with rxs := rest } (b.extractLsb' 0 7) (b.getLsbD 7)) .ok) := by
  rw [exec, execDechdr, operate_of_noError hs, dechdrBody_decodes hrx hb, conclude_ok]

/-- `RDREG` of HDR answers the octet that FIN and OPC came from, widened with zeros (R31, R37, R210). -/
theorem exec_rdreg_hdr {s : State} {b : Octet} (hfin : s.fin = b.getLsbD 7) (hopc : s.opc = b.extractLsb' 0 7) :
    exec (.rdreg 2) s = .next (respond s (.okValue (BitVec.ofNat 64 b.toNat))) := by
  have hread : readRegister s 2 = some (BitVec.ofNat 64 b.toNat) := by
    change some ((hdrView s.fin s.opc).setWidth 64) = _
    rw [hfin, hopc, hdrView_octet, BitVec.ofNat_toNat]
  simp only [exec, execRdreg, rdregBody, hread, conclude_value]

/-- Settles O15: DECHDR keeps the octet's two fields, and HDR puts them together again. -/
theorem hdrReadsBackTheOctet : Obligations.HdrReadsBackTheOctet := by
  intro s b rest hs hrx hb
  exact ⟨_, _, exec_dechdr_legal hs hrx hb, exec_rdreg_hdr rfl rfl, opcode_reserved_bits hb, by simp⟩

end Sys2Proof.Machine
end

section
/-! SUPPORT. BUF through the port: `WRBUF` writes one octet and `RDBUF` answers one (R73, R192, R193). -/

namespace Sys2Proof.Machine

/-- A read of BUF after one octet is written: that octet at its address, what was there before elsewhere (R73). -/
theorem bufRead_setBuf_singleton (s : State) (a x : Nat) (v : Octet) :
    bufRead (setBuf s a [v]) x = if x = a then v else bufRead s x := by
  split
  · next h => subst h; exact bufRead_writeList_inside (s := s) (p := [v]) rfl (i := 0) Nat.one_pos
  · next h => exact bufRead_writeList_outside (p := [v]) rfl (by simp only [List.length_singleton]; omega)

/-- `WRBUF` inside the buffer (R192). -/
theorem exec_wrbuf_inside {s : State} (hs : noError s) {a : U64} (ha : a.toNat < s.bufcap) (v : Octet) :
    exec (.wrbuf a v) s = .next (respond (setBuf s a.toNat [v]) .ok) := by
  rw [exec, execWrbuf, operate_of_noError hs, wrbufBody, if_pos (Nat.succ_le_of_lt ha), conclude_ok]

/-- `RDBUF` inside the buffer (R193). -/
theorem exec_rdbuf_inside {s : State} (hs : noError s) {a : U64} (ha : a.toNat < s.bufcap) :
    exec (.rdbuf a) s = .next (respond s (.okValue (BitVec.ofNat 64 (bufRead s a.toNat).toNat))) := by
  rw [exec, execRdbuf, operate_of_noError hs, rdbufBody, if_pos (Nat.succ_le_of_lt ha), conclude_value, BitVec.ofNat_toNat]

/-- Settles O30: `RDBUF` answers what the memory holds after the one octet is written. -/
theorem writeThenReadBuffer : Obligations.WriteThenReadBuffer := by
  intro s a b v hs ha hb
  refine ⟨_, _, exec_wrbuf_inside hs ha v, exec_rdbuf_inside (s := respond (setBuf s a.toNat [v]) .ok) hs hb, ?_⟩
  have hread : bufRead (respond (setBuf s a.toNat [v]) .ok) b.toNat = if b = a then v else bufRead s b.toNat := by
    rw [bufRead_congr (respond_buf _ _), bufRead_setBuf_singleton]
    simp only [BitVec.toNat_inj]
  simp [hread]

end Sys2Proof.Machine
end

section
/-! SUPPORT. What an error leaves behind (R278): a body that ends in an error has changed the streams alone, or it is an `LDBUF`
that ran short. -/

namespace Sys2Proof.Machine

/-- `Failure i s u e`: the body of `i`, run in `s`, can leave `u` and end in the error `e`. -/
inductive Failure (i : Instr) (s : State) : State → ErrorCode → Prop
  /-- Octets may have been read and sent; no register and no octet of BUF has changed (R278 (d)). -/
  | streams (rx tx : List Octet) (cap : Capacity) (e : ErrorCode) : Failure i s { s with rxs := rx, txs := tx, txcap := cap } e
  /-- The range of an `LDBUF` that ran short is unspecified (R278 (e), R190). -/
  | spoil (a n : U64) (hi : i = .ldbuf a n) : Failure i s (spoilRange { s with rxs := [] } a.toNat n.toNat) .rxShort

/-- The outcome of a body is a success or a failure of `i`. -/
def succeedsOrFails (i : Instr) (s : State) (r : State × Ending) : Prop :=
  ∀ e, r.2 = .error e → Failure i s r.1 e

/-! ### The pieces that bodies are made of -/

theorem Failure.unchanged (i : Instr) (s : State) (e : ErrorCode) : Failure i s s e := .streams _ _ _ e

theorem Failure.consumed (i : Instr) (s : State) (rx : List Octet) (e : ErrorCode) : Failure i s { s with rxs := rx } e :=
  .streams rx _ _ e

theorem succeedsOrFails_ok (i : Instr) (s u : State) : succeedsOrFails i s (u, .ok) := fun _ h => by cases h

theorem succeedsOrFails_value (i : Instr) (s u : State) (v : U64) : succeedsOrFails i s (u, .value v) := fun _ h => by cases h

theorem Failure.succeedsOrFails {i : Instr} {s u : State} {e : ErrorCode} (h : Failure i s u e) :
    succeedsOrFails i s (u, .error e) := fun _ he => by cases he; exact h

/-- A failing test changes nothing. -/
theorem succeedsOrFails_error (i : Instr) (s : State) (e : ErrorCode) : succeedsOrFails i s (s, .error e) :=
  (Failure.unchanged i s e).succeedsOrFails

theorem succeedsOrFails_ite {P : Prop} [Decidable P] {i : Instr} {s : State} {yes no : State × Ending}
    (hyes : succeedsOrFails i s yes) (hno : succeedsOrFails i s no) : succeedsOrFails i s (if P then yes else no) := by
  split
  · exact hyes
  · exact hno

theorem succeedsOrFails_send (i : Instr) (s : State) (l : List Octet) : succeedsOrFails i s (send s l) := by
  obtain ⟨-, h⟩ | ⟨c, -, -, h⟩ := send_cases s l <;> rw [h]
  · exact succeedsOrFails_ok i s _
  · exact (Failure.streams _ _ _ _).succeedsOrFails

/-! ### The bodies -/

theorem dechdrBody_succeedsOrFails (i : Instr) (s : State) : succeedsOrFails i s (dechdrBody s) := by
  obtain ⟨-, h⟩ | ⟨b, rest, -, -, h⟩ | ⟨b, rest, -, -, h⟩ := dechdrBody_cases s <;> rw [h]
  · exact succeedsOrFails_error i s _
  · exact (Failure.consumed i s rest _).succeedsOrFails
  · exact succeedsOrFails_ok i s _

theorem declenBody_succeedsOrFails (i : Instr) (s : State) : succeedsOrFails i s (declenBody s) := by
  obtain ⟨e, rest, h, -⟩ | ⟨n, m, rest, h, -⟩ := declenBody_cases s <;> rw [h]
  · exact (Failure.consumed i s rest e).succeedsOrFails
  · exact succeedsOrFails_ok i s _

theorem ldkeyBody_succeedsOrFails (i : Instr) (s : State) : succeedsOrFails i s (ldkeyBody s) := by
  obtain ⟨-, h⟩ | ⟨-, h⟩ := rxRead_cases s 4 <;> simp only [ldkeyBody, h]
  · exact succeedsOrFails_ok i s _
  · exact (Failure.consumed i s [] _).succeedsOrFails

theorem ldbufBody_succeedsOrFails (a n : U64) (s : State) : succeedsOrFails (.ldbuf a n) s (ldbufBody a n s) := by
  refine succeedsOrFails_ite ?_ (succeedsOrFails_error _ s _)
  obtain ⟨-, h⟩ | ⟨-, h⟩ := rxRead_cases s n.toNat <;> simp only [h]
  · exact succeedsOrFails_ok _ s _
  · exact (Failure.spoil a n rfl).succeedsOrFails

theorem rdregBody_succeedsOrFails (i : Instr) (r : Octet) (s : State) : succeedsOrFails i s (rdregBody r s) := by
  unfold rdregBody
  split
  · exact succeedsOrFails_value i s s _
  · exact succeedsOrFails_error i s _

/-- The body of an instruction of any row succeeds, or fails in one of the listed ways. -/
theorem bodyOf_succeedsOrFails (i : Instr) (s : State) : succeedsOrFails i s (bodyOf i s) := by
  cases i with
  | dechdr => exact dechdrBody_succeedsOrFails _ s
  | declen => exact declenBody_succeedsOrFails _ s
  | enchdr | enclen | stkey => exact succeedsOrFails_ite (succeedsOrFails_error _ s _) (succeedsOrFails_send _ s _)
  | ldkey => exact ldkeyBody_succeedsOrFails _ s
  | setkey | reset => exact succeedsOrFails_ok _ s _
  | applymask =>
    exact succeedsOrFails_ite (succeedsOrFails_error _ s _)
      (succeedsOrFails_ite (succeedsOrFails_ok _ s _) (succeedsOrFails_error _ s _))
  | wrreg =>
    exact succeedsOrFails_ite (succeedsOrFails_error _ s _)
      (succeedsOrFails_ite (succeedsOrFails_error _ s _) (succeedsOrFails_ok _ s _))
  | ldbuf a n => exact ldbufBody_succeedsOrFails a n s
  | stbuf => exact succeedsOrFails_ite (succeedsOrFails_send _ s _) (succeedsOrFails_error _ s _)
  | wrbuf => exact succeedsOrFails_ite (succeedsOrFails_ok _ s _) (succeedsOrFails_error _ s _)
  | rdbuf => exact succeedsOrFails_ite (succeedsOrFails_value _ s s _) (succeedsOrFails_error _ s _)
  | rdreg r => exact rdregBody_succeedsOrFails _ r s
  | reserved00 | reserved10 | reserved20 | reserved40 | reserved80 => exact succeedsOrFails_error _ s _
  | w1Inline00 | w1Inline40 | w1Inline60 | w1Inline70 | w1Inline78 | w1Inline7C | w1Ext16 | w1Ext64 =>
    exact declenBody_succeedsOrFails _ s
  | _ => exact dechdrBody_succeedsOrFails _ s

/-! ### The answer -/

/-- Only an error is answered with `ERR`, and with its own code (R278 (c)). -/
theorem conclude_answers_err {u : State} {e : Ending} {c : BitVec 4}
    (h : (conclude (u, e)).responses = u.responses ++ [.err c]) : ∃ err, e = .error err ∧ errorCode err = c := by
  cases e with
  | ok => simp at h
  | value v => simp at h
  | error err => exact ⟨err, rfl, by simpa [raise] using h⟩

/-- The bits of STATUS above ERR survive the latching of a code. -/
theorem withErr_upper (v : Octet) (c : BitVec 4) : withErr v c &&& 0xF0 = v &&& 0xF0 := by
  ext k hk
  interval_cases k <;> simp [withErr]

theorem conclude_status_upper (r : State × Ending) : (conclude r).status &&& 0xF0 = r.1.status &&& 0xF0 := by
  obtain h | ⟨-, e, h, -⟩ := conclude_status r <;> simp only [h, withErr_upper]

/-- An instruction is refused, or its body runs and is answered. -/
theorem exec_refuses_or_runs {i : Instr} {s t : State} (h : exec i s = .next t) :
    t = refuse (arrive s (wireOctets i)) ∨ ∃ u e, bodyOf i (arrive s (wireOctets i)) = (u, e) ∧ t = conclude (u, e) := by
  by_cases hs : noError s
  · exact .inr ⟨_, _, rfl, Host.Outcome.next.inj (h.symm.trans (exec_of_noError hs i))⟩
  · cases hi : runsInErrorState i with
    | true => exact .inr ⟨_, _, rfl, Host.Outcome.next.inj (h.symm.trans (exec_of_runsInErrorState hi s))⟩
    | false => exact .inl (Host.Outcome.next.inj (h.symm.trans (exec_of_errorState hs hi)))

/-- An instruction that answers `ERR(c)` is refused, or its body fails with an error of code `c`. -/
theorem exec_refuses_or_fails {i : Instr} {s t : State} {c : BitVec 4} (h : exec i s = .next t)
    (hresp : t.responses = s.responses ++ [.err c]) :
    t = refuse (arrive s (wireOctets i)) ∨
    ∃ u e, Failure i (arrive s (wireOctets i)) u e ∧ c = errorCode e ∧ t = conclude (u, .error e) := by
  obtain ht | ⟨u, e, hbody, rfl⟩ := exec_refuses_or_runs h
  · exact .inl ht
  · have heffect := bodyOf_effect i (arrive s (wireOctets i))
    have hfails := bodyOf_succeedsOrFails i (arrive s (wireOctets i))
    rw [hbody] at heffect hfails
    obtain ⟨err, rfl, hc⟩ := conclude_answers_err (u := u) (e := e) (by rw [hresp, heffect.responses, arrive_responses])
    exact .inr ⟨u, err, hfails err rfl, hc.symm, rfl⟩

/-- Settles O42: a refusal changes nothing, and a failed body has changed the streams or the range of a short `LDBUF`. -/
theorem failureKeepsRegisters : Obligations.FailureKeepsRegisters := by
  intro i s t c h hresp
  obtain rfl | ⟨u, e, hu, hc, rfl⟩ := exec_refuses_or_fails h hresp
  · exact ⟨rfl, rfl, rfl, rfl, rfl, rfl, rfl, fun _ _ => rfl⟩
  · simp only [conclude_opc, conclude_fin, conclude_masked, conclude_len, conclude_key, conclude_ctrl, conclude_status_upper,
      bufRead_congr (conclude_buf (u, .error e))]
    cases hu with
    | streams => exact ⟨rfl, rfl, rfl, rfl, rfl, rfl, rfl, fun _ _ => rfl⟩
    | spoil a n hi =>
      refine ⟨rfl, rfl, rfl, rfl, rfl, rfl, rfl, fun x hx => bufRead_writeList_outside rfl fun hin => hx ?_⟩
      exact ⟨a, n, hi, hc, by simpa using hin⟩

end Sys2Proof.Machine
end

section
/-! SUPPORT. The port under execution (R77): no body sees the transfers still to be delivered. The pieces that bodies are made of
commute with replacing them, so every body does, and so does `exec`. -/

namespace Sys2Proof.Machine

/-- The state with other transfers still to be delivered. -/
def withPort (q : List (List Octet)) (s : State) : State := { s with port := q }

/-- The body does the same whatever transfers are pending, and leaves them. -/
def ignoresPort (body : State → State × Ending) : Prop :=
  ∀ (s : State) (q : List (List Octet)), body (withPort q s) = Prod.map (withPort q) id (body s)

/-! ### The pieces that bodies are made of -/

/-- An update and an ending that do not depend on the port. -/
theorem ignoresPort_pure {f : State → State} {e : State → Ending} (hf : ∀ s q, f (withPort q s) = withPort q (f s))
    (he : ∀ s q, e (withPort q s) = e s) : ignoresPort fun s => (f s, e s) := fun s q =>
  Prod.ext (hf s q) (he s q)

/-- An error raised with nothing changed. -/
theorem ignoresPort_error (e : ErrorCode) : ignoresPort fun s => (s, .error e) :=
  ignoresPort_pure (fun _ _ => rfl) fun _ _ => rfl

/-- A test that does not depend on the port. -/
theorem ignoresPort_ite {P : State → Prop} [DecidablePred P] {yes no : State → State × Ending}
    (hP : ∀ s q, P (withPort q s) ↔ P s) (hyes : ignoresPort yes) (hno : ignoresPort no) :
    ignoresPort fun s => if P s then yes s else no s := by
  intro s q
  simp only [hP s q]
  split
  · exact hyes s q
  · exact hno s q

/-- A send of octets that do not depend on the port. -/
theorem ignoresPort_send {l : State → List Octet} (hl : ∀ s q, l (withPort q s) = l s) : ignoresPort fun s => send s (l s) := by
  intro s q
  simp only [hl]
  obtain ⟨hroom, h⟩ | ⟨c, hc, hshort, h⟩ := send_cases s (l s)
  · rw [h, send_room (s := withPort q s) hroom]; rfl
  · rw [h, send_short (s := withPort q s) hc hshort]; rfl

/-- `RxRead` takes the same octets whatever transfers are pending. -/
theorem rxRead_withPort (s : State) (n : Nat) (q : List (List Octet)) :
    rxRead (withPort q s) n = Prod.map id (withPort q) (rxRead s n) := by
  obtain ⟨hn, h⟩ | ⟨hn, h⟩ := rxRead_cases s n
  · rw [h, rxRead_enough (s := withPort q s) hn]; rfl
  · rw [h, rxRead_short (s := withPort q s) hn]; rfl

theorem bufSlice_withPort (s : State) (a n : Nat) (q : List (List Octet)) : bufSlice (withPort q s) a n = bufSlice s a n :=
  bufSlice_congr (s := s) (t := withPort q s) rfl a n

/-! ### The bodies -/

theorem dechdrBody_ignoresPort : ignoresPort dechdrBody := by
  intro s q
  simp only [dechdrBody, rxRead_withPort]
  obtain ⟨_ | p, u⟩ := rxRead s 1
  · rfl
  · simp only [Prod.map_apply, id]
    cases unpackHeader (octetAt p 0) <;> rfl

theorem readExtension_ignoresPort (m : Bool) (n : Nat) (value : List Octet → U64) :
    ignoresPort fun s => readExtension s m n value := by
  intro s q
  simp only [readExtension, rxRead_withPort]
  obtain ⟨_ | p, u⟩ := rxRead s n <;> rfl

theorem decodeLength_ignoresPort (m : Bool) (c : BitVec 7) : ignoresPort fun s => decodeLength s m c :=
  ignoresPort_ite (fun _ _ => .rfl) (ignoresPort_error _) <|
    ignoresPort_ite (fun _ _ => .rfl) (readExtension_ignoresPort m 2 _) <|
      ignoresPort_ite (fun _ _ => .rfl) (readExtension_ignoresPort m 8 _) <|
        ignoresPort_pure (fun _ _ => rfl) fun _ _ => rfl

theorem declenBody_ignoresPort : ignoresPort declenBody := by
  intro s q
  simp only [declenBody, rxRead_withPort]
  obtain ⟨_ | p, u⟩ := rxRead s 1
  · rfl
  · exact decodeLength_ignoresPort _ _ u q

theorem ldkeyBody_ignoresPort : ignoresPort ldkeyBody := by
  intro s q
  simp only [ldkeyBody, rxRead_withPort]
  obtain ⟨_ | p, u⟩ := rxRead s 4 <;> rfl

theorem ldbufBody_ignoresPort (a n : U64) : ignoresPort (ldbufBody a n) := by
  refine ignoresPort_ite (fun _ _ => .rfl) (fun s q => ?_) (ignoresPort_error _)
  simp only [rxRead_withPort]
  obtain ⟨_ | p, u⟩ := rxRead s n.toNat <;> rfl

theorem applymaskBody_ignoresPort (a n : U64) : ignoresPort (applymaskBody a n) := by
  refine ignoresPort_ite (fun _ _ => .rfl) (ignoresPort_error _) <|
    ignoresPort_ite (fun _ _ => .rfl) (ignoresPort_pure (fun s q => ?_) fun _ _ => rfl) (ignoresPort_error _)
  rw [bufSlice_withPort]; rfl

theorem rdregBody_ignoresPort (r : Octet) : ignoresPort (rdregBody r) := by
  intro s q
  have hreg : readRegister (withPort q s) r = readRegister s r := rfl
  simp only [rdregBody, hreg]
  cases readRegister s r <;> rfl

theorem wrregBody_ignoresPort (r v : Octet) : ignoresPort (wrregBody r v) :=
  ignoresPort_ite (fun _ _ => .rfl) (ignoresPort_error _) <|
    ignoresPort_ite (fun _ _ => .rfl) (ignoresPort_error _) <| ignoresPort_pure (fun _ _ => rfl) fun _ _ => rfl

/-- No body of any row sees the port. -/
theorem bodyOf_ignoresPort (i : Instr) : ignoresPort (bodyOf i) := by
  cases i with
  | dechdr => exact dechdrBody_ignoresPort
  | declen => exact declenBody_ignoresPort
  | enchdr | enclen | stkey =>
    exact ignoresPort_ite (fun _ _ => .rfl) (ignoresPort_error _) (ignoresPort_send fun _ _ => rfl)
  | ldkey => exact ldkeyBody_ignoresPort
  | setkey | reset => exact ignoresPort_pure (fun _ _ => rfl) fun _ _ => rfl
  | applymask a n => exact applymaskBody_ignoresPort a n
  | ldbuf a n => exact ldbufBody_ignoresPort a n
  | stbuf a n =>
    exact ignoresPort_ite (fun _ _ => .rfl) (ignoresPort_send fun s q => bufSlice_withPort s _ _ q) (ignoresPort_error _)
  | wrbuf | rdbuf =>
    exact ignoresPort_ite (fun _ _ => .rfl) (ignoresPort_pure (fun _ _ => rfl) fun _ _ => rfl) (ignoresPort_error _)
  | rdreg r => exact rdregBody_ignoresPort r
  | wrreg r v => exact wrregBody_ignoresPort r v
  | reserved00 | reserved10 | reserved20 | reserved40 | reserved80 => exact ignoresPort_error _
  | w1Inline00 | w1Inline40 | w1Inline60 | w1Inline70 | w1Inline78 | w1Inline7C | w1Ext16 | w1Ext64 =>
    exact declenBody_ignoresPort
  | _ => exact dechdrBody_ignoresPort

/-! ### The instruction as a whole -/

/-- The answer does not see the port. -/
theorem conclude_withPort (q : List (List Octet)) (r : State × Ending) :
    conclude (Prod.map (withPort q) id r) = withPort q (conclude r) := by
  obtain ⟨s, e⟩ := r
  cases e with
  | ok => rfl
  | value v => rfl
  | error e =>
    change raise (withPort q s) e = withPort q (raise s e)
    by_cases hs : noError s
    · rw [raise_of_noError hs, raise_of_noError (s := withPort q s) hs]; rfl
    · rw [raise_of_errorState hs, raise_of_errorState (s := withPort q s) hs]; rfl

/-- Running a body and answering commutes with replacing the pending transfers. -/
theorem conclude_bodyOf_withPort (i : Instr) (s : State) (q : List (List Octet)) :
    conclude (bodyOf i (arrive (withPort q s) (wireOctets i))) = withPort q (conclude (bodyOf i (arrive s (wireOctets i)))) := by
  rw [← conclude_withPort, ← bodyOf_ignoresPort i]; rfl

/-- Settles O48: an instruction is refused by its STATUS alone, and a body that runs does not see the port. -/
theorem commandsStayOnThePort : Obligations.CommandsStayOnThePort := by
  intro i s t q h
  change exec i (withPort q s) = .next (withPort q t)
  by_cases hs : noError s
  · rw [exec_of_noError hs] at h
    rw [exec_of_noError (s := withPort q s) hs, conclude_bodyOf_withPort, Host.Outcome.next.inj h]
  · cases hrun : runsInErrorState i with
    | true =>
      rw [exec_of_runsInErrorState hrun] at h ⊢
      rw [conclude_bodyOf_withPort, Host.Outcome.next.inj h]
    | false =>
      rw [exec_of_errorState hs hrun] at h
      rw [exec_of_errorState (s := withPort q s) hs hrun, ← Host.Outcome.next.inj h]
      rfl

end Sys2Proof.Machine
end

section
/-! SUPPORT. The command port: the transfer that a command is encoded as decodes to that command, and a step executes what the
next transfer decodes to (R71, R100). -/

namespace Sys2Proof

/-! ### Reserved command codes -/

/-- An octet that matches a row is at least the row's match. -/
theorem le_of_matches8 {v mask want : Octet} (h : matches8 v mask want = true) : want.toNat ≤ v.toNat := by
  rw [← eq_of_beq h, BitVec.toNat_and]
  exact Nat.and_le_left

/-- An octet that matches a row does not match a row that asks for other bits under a part of the same mask. -/
theorem matches8_part_false {v mask want mask' want' : Octet} (h : matches8 v mask want = true) (hmask : mask &&& mask' = mask')
    (hwant : want &&& mask' ≠ want') : matches8 v mask' want' = false := by
  refine beq_false_of_ne fun heq => hwant ?_
  rw [← eq_of_beq h, BitVec.and_assoc, hmask, heq]

/-- A code above 0x0F takes no operand octets (R107). -/
theorem operandOctets_reserved {cc : Octet} (h : 0x0F < cc.toNat) : operandOctets cc = 0 := by
  unfold operandOctets
  split
  case h_11 => rfl
  all_goals omega

/-- A code above 0x0F spells no operation (R107). -/
theorem decodeOperands_reserved {cc : Octet} (h : 0x0F < cc.toNat) (p : List Octet) : decodeOperands cc p = decodeReserved cc := by
  unfold decodeOperands
  split
  case h_16 => rfl
  all_goals omega

/-- A transfer of the length that its command code takes is a command (R100). -/
theorem decodeCommand_of_length {cc : Octet} {p : List Octet} (h : p.length = operandOctets cc) :
    decodeCommand (cc :: p) = .ok (decodeOperands cc p) := if_pos h

/-- An octet of a reserved row above 0x0F is a whole transfer, decoded by its leading bits alone. -/
theorem decodeCommand_reserved {cc mask want : Octet} (h : matches8 cc mask want = true) (hwant : 0x0F < want.toNat) :
    decodeCommand [cc] = .ok (decodeReserved cc) := by
  have hcc : 0x0F < cc.toNat := hwant.trans_le (le_of_matches8 h)
  rw [decodeCommand_of_length (p := []) (operandOctets_reserved hcc).symm, decodeOperands_reserved hcc]

theorem decodeReserved_80 {cc : Octet} (h : matches8 cc 0x80 0x80 = true) : decodeReserved cc = .reserved80 cc := if_pos h

theorem decodeReserved_40 {cc : Octet} (h : matches8 cc 0xC0 0x40 = true) : decodeReserved cc = .reserved40 cc := by
  simp only [decodeReserved, matches8_part_false h (mask' := 0x80) (want' := 0x80) (by decide) (by decide), h]
  rfl

theorem decodeReserved_20 {cc : Octet} (h : matches8 cc 0xE0 0x20 = true) : decodeReserved cc = .reserved20 cc := by
  simp only [decodeReserved, matches8_part_false h (mask' := 0x80) (want' := 0x80) (by decide) (by decide),
    matches8_part_false h (mask' := 0xC0) (want' := 0x40) (by decide) (by decide), h]
  rfl

theorem decodeReserved_10 {cc : Octet} (h : matches8 cc 0xF0 0x10 = true) : decodeReserved cc = .reserved10 cc := by
  simp only [decodeReserved, matches8_part_false h (mask' := 0x80) (want' := 0x80) (by decide) (by decide),
    matches8_part_false h (mask' := 0xC0) (want' := 0x40) (by decide) (by decide),
    matches8_part_false h (mask' := 0xE0) (want' := 0x20) (by decide) (by decide), h]
  rfl

/-! ### The round trip on the command port -/

/-- The encoding of a well-formed command decodes to that command (R100 to R103, R107). -/
theorem decodeCommand_encode {i : Instr} (hwf : WellFormed i = true) (hi : i.space = .command) :
    decodeCommand (encode i) = .ok i := by
  cases i with
  | dechdr | declen | ldkey | stkey | reset | reserved00 | setkey | rdreg | wrreg => rfl
  | enchdr | enclen | applymask | ldbuf | stbuf | wrbuf | rdbuf =>
    refine (decodeCommand_of_length rfl).trans ?_
    simp [decodeOperands]
  | reserved10 cc => exact (decodeCommand_reserved hwf (by decide)).trans (congrArg _ (decodeReserved_10 hwf))
  | reserved20 cc => exact (decodeCommand_reserved hwf (by decide)).trans (congrArg _ (decodeReserved_20 hwf))
  | reserved40 cc => exact (decodeCommand_reserved hwf (by decide)).trans (congrArg _ (decodeReserved_40 hwf))
  | reserved80 cc => exact (decodeCommand_reserved hwf (by decide)).trans (congrArg _ (decodeReserved_80 hwf))
  | _ => cases hi

end Sys2Proof

namespace Sys2Proof.Machine

/-- A step executes the command that the next transfer decodes to (R71, R100). -/
theorem step_of_decodes {s : State} {p : List Octet} {i : Instr} {rest : List (List Octet)} (hport : s.port = p :: rest)
    (hdec : decodeCommand p = .ok i) : step s = exec i { s with port := rest } := by
  simp only [step, hport, hdec]

/-- With no transfer pending a step idles (R286). -/
theorem step_idle {s : State} (hport : s.port = []) : step s = .next s := by
  simp only [step, hport]

/-- Settles O5: the encoding of a well-formed command decodes to it, and a step runs what the next transfer decodes to. -/
theorem stepRunsDeliveredCommand : Obligations.StepRunsDeliveredCommand :=
  ⟨fun _ _ _ hwf hi hport => step_of_decodes hport (decodeCommand_encode hwf hi),
    fun _ _ _ _ hdec hport => step_of_decodes hport hdec, fun _ hport => step_idle hport⟩

end Sys2Proof.Machine
end

section
/-! SUPPORT. The encoding of a well-formed instruction decodes to it, in the space of leading octets and in that of length fields
as on the command port (R91 to R97, R105). A row is told from the others by its bits under the masks. -/

namespace Sys2Proof

/-! ### Bits under a mask -/

/-- A word that matches one row does not match another that asks for different bits under what the two masks share. -/
theorem and_ne_of_and_eq {w : Nat} {v mask want mask' want' : BitVec w} (h : v &&& mask = want)
    (hne : want &&& mask' ≠ want' &&& mask) : v &&& mask' ≠ want' := by
  rintro rfl
  rw [← h, BitVec.and_assoc, BitVec.and_assoc, BitVec.and_comm mask] at hne
  exact hne rfl

/-- A length code that matches a row does not match a row that its masks tell apart from it. -/
theorem matches7_other {c mask want mask' want' : BitVec 7} (h : matches7 c mask want = true)
    (hne : want &&& mask' ≠ want' &&& mask) : (c &&& mask' == want') = false :=
  beq_false_of_ne (and_ne_of_and_eq (eq_of_beq h) hne)

/-- A length code that matches a row is none of the codes outside the row. -/
theorem ne_of_matches7 {c mask want c' : BitVec 7} (h : matches7 c mask want = true) (hc : c' &&& mask ≠ want) : c ≠ c' := by
  rintro rfl
  exact hc (eq_of_beq h)

/-- The reserved bits of a leading octet, as the number they spell. -/
theorem and_0x70 (b : Octet) : b &&& (0x70 : Octet) = (b.extractLsb' 4 3).setWidth 8 <<< 4 := by
  ext k hk
  interval_cases k <;> simp

/-- The upper half of an octet, as the number it spells. -/
theorem and_0xF0 (b : Octet) : b &&& (0xF0 : Octet) = (b.extractLsb' 4 4).setWidth 8 <<< 4 := by
  ext k hk
  interval_cases k <;> simp

/-- A leading octet with a reserved bit set is in one of the three rows for it (R105). -/
theorem matches_reserved_row {b : Octet} (h : b &&& 0x70 ≠ 0) :
    matches8 b 0x40 0x40 = true ∨ matches8 b 0x60 0x20 = true ∨ matches8 b 0x70 0x10 = true := by
  have under {mask : Octet} (hmask : 0x70 &&& mask = mask) : b &&& mask = b &&& 0x70 &&& mask := by
    rw [BitVec.and_assoc, hmask]
  simp only [matches8, under (mask := 0x40) rfl, under (mask := 0x60) rfl]
  revert h
  rw [and_0x70]
  generalize b.extractLsb' 4 3 = r
  revert r
  decide

/-- A command code above 0x0F is in one of the four rows for it (R107). -/
theorem matches_reserved_command {cc : Octet} (h : 0x0F < cc.toNat) : matches8 cc 0x80 0x80 = true ∨
    matches8 cc 0xC0 0x40 = true ∨ matches8 cc 0xE0 0x20 = true ∨ matches8 cc 0xF0 0x10 = true := by
  have under {mask : Octet} (hmask : 0xF0 &&& mask = mask) : cc &&& mask = cc &&& 0xF0 &&& mask := by
    rw [BitVec.and_assoc, hmask]
  have hne : cc.extractLsb' 4 4 ≠ 0 := fun h0 => by
    have := congrArg BitVec.toNat h0
    simp [BitVec.extractLsb'_toNat, Nat.shiftRight_eq_div_pow] at this
    omega
  simp only [matches8, under (mask := 0x80) rfl, under (mask := 0xC0) rfl, under (mask := 0xE0) rfl]
  revert hne
  rw [and_0xF0]
  generalize cc.extractLsb' 4 4 = r
  revert r
  decide

/-! ### Leading octets -/

theorem decodeLeading_40 {b : Octet} (h : matches8 b 0x40 0x40 = true) : decodeLeading b = .w0RsvSet40 b := if_pos h

theorem decodeLeading_20 {b : Octet} (h : matches8 b 0x60 0x20 = true) : decodeLeading b = .w0RsvSet20 b := by
  simp only [decodeLeading, matches8_part_false h (mask' := 0x40) (want' := 0x40) (by decide) (by decide), h]
  rfl

theorem decodeLeading_10 {b : Octet} (h : matches8 b 0x70 0x10 = true) : decodeLeading b = .w0RsvSet10 b := by
  simp only [decodeLeading, matches8_part_false h (mask' := 0x40) (want' := 0x40) (by decide) (by decide),
    matches8_part_false h (mask' := 0x60) (want' := 0x20) (by decide) (by decide), h]
  rfl

/-- The encoding of a well-formed leading octet decodes to its row (R91, R92, R105). -/
theorem decodeW0_encode {i : Instr} (hwf : WellFormed i = true) (hi : i.space = .w0) : decodeW0 (encode i) = .ok i := by
  cases i with
  | w0RsvSet40 b => exact congrArg _ (decodeLeading_40 hwf)
  | w0RsvSet20 b => exact congrArg _ (decodeLeading_20 hwf)
  | w0RsvSet10 b => exact congrArg _ (decodeLeading_10 hwf)
  | w0Continuation fin | w0Text fin | w0Binary fin | w0Unknown3 fin | w0Unknown4 fin | w0Unknown5 fin | w0Unknown6 fin
  | w0Unknown7 fin | w0Close fin | w0Ping fin | w0Pong fin | w0UnknownB fin | w0UnknownC fin | w0UnknownD fin | w0UnknownE fin
  | w0UnknownF fin => cases fin <;> rfl
  | _ => cases hi

/-! ### Length fields -/

/-- A length field of the length that its code takes is decoded by its code (R93 to R96). -/
theorem decodeW1_w1Octet (m : Bool) {c : BitVec 7} {e : List Octet} (h : e.length = extensionOctets c) :
    decodeW1 (w1Octet m c :: e) = .ok (decodeLengthRow m c e) := by
  simp [decodeW1, h]

/-- An inline code has no extension octets (R94). -/
theorem extensionOctets_inline {c : BitVec 7} (h6 : c ≠ 126) (h7 : c ≠ 127) : extensionOctets c = 0 := by
  unfold extensionOctets
  split
  · next h => exact absurd (BitVec.eq_of_toNat_eq h) h6
  · next h => exact absurd (BitVec.eq_of_toNat_eq h) h7
  · rfl

/-- The encoding of a well-formed length field decodes to its row (R93 to R96). -/
theorem decodeW1_encode {i : Instr} (hwf : WellFormed i = true) (hi : i.space = .w1) : decodeW1 (encode i) = .ok i := by
  cases i with
  | w1Ext16 m n => exact (decodeW1_w1Octet m rfl).trans (by simp [decodeLengthRow])
  | w1Ext64 m n => exact (decodeW1_w1Octet m rfl).trans (by simp [decodeLengthRow])
  | w1Inline00 m c | w1Inline40 m c | w1Inline60 m c | w1Inline70 m c | w1Inline78 m c | w1Inline7C m c =>
    have h6 : c ≠ 126 := ne_of_matches7 hwf (by decide)
    have h7 : c ≠ 127 := ne_of_matches7 hwf (by decide)
    have hrow : matches7 c _ _ = true := hwf
    refine (decodeW1_w1Octet m (e := []) (extensionOctets_inline h6 h7).symm).trans ?_
    simp (disch := decide) only [decodeLengthRow, h6, h7, hrow, matches7_other hwf, reduceIte, Bool.false_eq_true]
  | _ => cases hi

/-- Settles O1: one round trip per space. -/
theorem decodeEncodeRoundTrip : Obligations.DecodeEncodeRoundTrip := by
  intro i hwf
  cases hi : i.space with
  | command => exact decodeCommand_encode hwf hi
  | w0 => exact decodeW0_encode hwf hi
  | w1 => exact decodeW1_encode hwf hi

end Sys2Proof
end

section
/-! SUPPORT. The other direction: octets of the length that their first octet announces are the encoding of some instruction
(R91 to R107). As its encoding decodes to it, it is the one that the octets decode to. -/

namespace Sys2Proof

/-! ### Big-endian numbers -/

/-- `bytes16(be16(b0, b1)) = [b0, b1]` (R9). -/
theorem bytes16_be16 (b0 b1 : Octet) : bytes16 (be16 b0 b1) = [b0, b1] := by
  simp only [bytes16, List.cons.injEq, and_true]
  refine ⟨?_, ?_⟩ <;>
  · apply BitVec.eq_of_toNat_eq
    rw [BitVec.extractLsb'_toNat, Nat.shiftRight_eq_div_pow, be16, BitVec.toNat_ofNat]
    omega

/-- `bytes64(be64(b0, ..., b7)) = [b0, ..., b7]` (R9). -/
theorem bytes64_be64 (b0 b1 b2 b3 b4 b5 b6 b7 : Octet) :
    bytes64 (be64 b0 b1 b2 b3 b4 b5 b6 b7) = [b0, b1, b2, b3, b4, b5, b6, b7] := by
  simp only [bytes64, List.cons.injEq, and_true]
  refine ⟨?_, ?_, ?_, ?_, ?_, ?_, ?_, ?_⟩ <;>
  · apply BitVec.eq_of_toNat_eq
    rw [BitVec.extractLsb'_toNat, Nat.shiftRight_eq_div_pow, be64, BitVec.toNat_ofNat]
    omega

/-- Two octets spell a 16-bit number. -/
theorem exists_bytes16 {p : List Octet} (h : p.length = 2) : ∃ v, p = bytes16 v := by
  match p, h with
  | [b0, b1], _ => exact ⟨_, (bytes16_be16 b0 b1).symm⟩

/-- Eight octets spell a 64-bit number. -/
theorem exists_bytes64 {p : List Octet} (h : p.length = 8) : ∃ v, p = bytes64 v := by
  match p, h with
  | [b0, b1, b2, b3, b4, b5, b6, b7], _ => exact ⟨_, (bytes64_be64 b0 b1 b2 b3 b4 b5 b6 b7).symm⟩

/-- Eight octets and more begin with a 64-bit number. -/
theorem exists_bytes64_append {n : Nat} {p : List Octet} (h : p.length = 8 + n) :
    ∃ v rest, p = bytes64 v ++ rest ∧ rest.length = n := by
  obtain ⟨v, hv⟩ := exists_bytes64 (p := p.take 8) (by simp [h])
  exact ⟨v, p.drop 8, by rw [← hv, List.take_append_drop], by simp [h]⟩

/-- Sixteen octets spell two 64-bit numbers. -/
theorem exists_bytes64_pair {p : List Octet} (h : p.length = 16) : ∃ v w, p = bytes64 v ++ bytes64 w := by
  obtain ⟨v, rest, rfl, hr⟩ := exists_bytes64_append (n := 8) h
  obtain ⟨w, rfl⟩ := exists_bytes64 hr
  exact ⟨v, w, rfl⟩

/-! ### Words -/

/-- `t` is the word of the well-formed instruction `i` in the space `sp`. -/
def IsWord (sp : Space) (t : List Octet) (i : Instr) : Prop := encode i = t ∧ i.space = sp ∧ WellFormed i = true

theorem isWord_encode {i : Instr} (h : WellFormed i = true) : IsWord i.space (encode i) i := ⟨rfl, rfl, h⟩

/-- A reserved command code is the word of its row (R107). -/
theorem isWord_decodeReserved {cc : Octet} (h : cc = 0x00 ∨ 0x0F < cc.toNat) : IsWord .command [cc] (decodeReserved cc) := by
  obtain rfl | h := h
  · exact ⟨rfl, rfl, rfl⟩
  · obtain h | h | h | h := matches_reserved_command h
    · rw [decodeReserved_80 h]; exact isWord_encode (i := .reserved80 cc) h
    · rw [decodeReserved_40 h]; exact isWord_encode (i := .reserved40 cc) h
    · rw [decodeReserved_20 h]; exact isWord_encode (i := .reserved20 cc) h
    · rw [decodeReserved_10 h]; exact isWord_encode (i := .reserved10 cc) h

/-- The code of an operation with as many operand octets as it takes is a word (R101 to R103). -/
theorem exists_isWord_operation {n : Nat} (hpos : 0 < n) (hle : n ≤ 0x0F) {p : List Octet}
    (hp : p.length = operandOctets (BitVec.ofNat 8 n)) : ∃ i, IsWord .command (BitVec.ofNat 8 n :: p) i := by
  interval_cases n
  · obtain rfl := List.eq_nil_of_length_eq_zero hp; exact ⟨.dechdr, isWord_encode rfl⟩
  · obtain ⟨h, rfl⟩ := List.length_eq_one_iff.1 hp
    exact ⟨.enchdr (h.extractLsb' 0 7) h[7], by rw [encode, flagOctet_split]; rfl, rfl, rfl⟩
  · obtain rfl := List.eq_nil_of_length_eq_zero hp; exact ⟨.declen, isWord_encode rfl⟩
  · obtain ⟨f, p, rfl⟩ := List.exists_cons_of_length_eq_add_one hp
    obtain ⟨len, rfl⟩ := exists_bytes64 (Nat.succ.inj hp)
    exact ⟨.enclen (f.extractLsb' 1 7) f[0] len, by rw [encode, octetFlag_split]; rfl, rfl, rfl⟩
  · obtain rfl := List.eq_nil_of_length_eq_zero hp; exact ⟨.ldkey, isWord_encode rfl⟩
  · match p, hp with
    | [k0, k1, k2, k3], _ => exact ⟨.setkey k0 k1 k2 k3, isWord_encode rfl⟩
  · obtain rfl := List.eq_nil_of_length_eq_zero hp; exact ⟨.stkey, isWord_encode rfl⟩
  · obtain ⟨a, n, rfl⟩ := exists_bytes64_pair hp; exact ⟨.applymask a n, isWord_encode rfl⟩
  · obtain ⟨a, n, rfl⟩ := exists_bytes64_pair hp; exact ⟨.ldbuf a n, isWord_encode rfl⟩
  · obtain ⟨a, n, rfl⟩ := exists_bytes64_pair hp; exact ⟨.stbuf a n, isWord_encode rfl⟩
  · obtain ⟨a, rest, rfl, hr⟩ := exists_bytes64_append (n := 1) hp
    obtain ⟨v, rfl⟩ := List.length_eq_one_iff.1 hr
    exact ⟨.wrbuf a v, isWord_encode rfl⟩
  · obtain ⟨a, rfl⟩ := exists_bytes64 hp; exact ⟨.rdbuf a, isWord_encode rfl⟩
  · obtain ⟨r, rfl⟩ := List.length_eq_one_iff.1 hp; exact ⟨.rdreg r, isWord_encode rfl⟩
  · obtain ⟨r, v, rfl⟩ := List.length_eq_two.1 hp; exact ⟨.wrreg r v, isWord_encode rfl⟩
  · obtain rfl := List.eq_nil_of_length_eq_zero hp; exact ⟨.reset, isWord_encode rfl⟩

/-- A command code with as many operand octets as it takes is a word (R100 to R103, R107). -/
theorem exists_isWord_command {cc : Octet} {p : List Octet} (hp : p.length = operandOctets cc) :
    ∃ i, IsWord .command (cc :: p) i := by
  by_cases hres : cc = 0x00 ∨ 0x0F < cc.toNat
  · have hnone : operandOctets cc = 0 := hres.elim (fun h => h ▸ rfl) operandOctets_reserved
    obtain rfl := List.eq_nil_of_length_eq_zero (hp.trans hnone)
    exact ⟨_, isWord_decodeReserved hres⟩
  · obtain ⟨hne, hle⟩ := not_or.1 hres
    have hpos : 0 < cc.toNat := Nat.pos_of_ne_zero fun h0 => hne (BitVec.eq_of_toNat_eq h0)
    have hcc : BitVec.ofNat 8 cc.toNat = cc := by simp
    rw [← hcc] at hp ⊢
    exact exists_isWord_operation hpos (Nat.not_lt.1 hle) hp

/-- A leading octet with its reserved bits 0 is its flag and its opcode (R91). -/
theorem w0Octet_split {b : Octet} (h : b &&& 0x70 = 0) : w0Octet b[7] (b.extractLsb' 0 4) = b := by
  rw [w0Octet, ← Machine.opcode_of_legal_octet h, flagOctet_split]

/-- A leading octet with its reserved bits 0 is the word of the row of its opcode (R92). -/
theorem isWord_decodeLeading_w0Octet : ∀ (fin : Bool) (opcode : BitVec 4),
    IsWord .w0 [w0Octet fin opcode] (decodeLeading (w0Octet fin opcode)) := by
  unfold IsWord; decide

/-- Every octet is a word of the leading octets (R91, R92, R105). -/
theorem exists_isWord_w0 (b : Octet) : ∃ i, IsWord .w0 [b] i := by
  by_cases hb : b &&& 0x70 = 0
  · rw [← w0Octet_split hb]
    exact ⟨_, isWord_decodeLeading_w0Octet _ _⟩
  · obtain h | h | h := matches_reserved_row hb
    · exact ⟨.w0RsvSet40 b, isWord_encode h⟩
    · exact ⟨.w0RsvSet20 b, isWord_encode h⟩
    · exact ⟨.w0RsvSet10 b, isWord_encode h⟩

/-- A length code up to 125 is in one of the six inline rows (R94). -/
theorem matches_inline_row : ∀ c : BitVec 7, c ≠ 126 → c ≠ 127 → matches7 c 0x40 0x00 = true ∨ matches7 c 0x60 0x40 = true ∨
    matches7 c 0x70 0x60 = true ∨ matches7 c 0x78 0x70 = true ∨ matches7 c 0x7C 0x78 = true ∨ matches7 c 0x7E 0x7C = true := by
  decide

/-- A length octet with as many extension octets as its code takes is a word of the length fields (R93 to R96). -/
theorem exists_isWord_w1Octet (m : Bool) {c : BitVec 7} {e : List Octet} (he : e.length = extensionOctets c) :
    ∃ i, IsWord .w1 (w1Octet m c :: e) i := by
  by_cases h6 : c = 126
  · subst h6
    obtain ⟨n, rfl⟩ := exists_bytes16 he
    exact ⟨.w1Ext16 m n, isWord_encode rfl⟩
  by_cases h7 : c = 127
  · subst h7
    obtain ⟨n, rfl⟩ := exists_bytes64 he
    exact ⟨.w1Ext64 m n, isWord_encode rfl⟩
  obtain rfl := List.eq_nil_of_length_eq_zero (he.trans (extensionOctets_inline h6 h7))
  obtain h | h | h | h | h | h := matches_inline_row c h6 h7
  · exact ⟨.w1Inline00 m c, isWord_encode h⟩
  · exact ⟨.w1Inline40 m c, isWord_encode h⟩
  · exact ⟨.w1Inline60 m c, isWord_encode h⟩
  · exact ⟨.w1Inline70 m c, isWord_encode h⟩
  · exact ⟨.w1Inline78 m c, isWord_encode h⟩
  · exact ⟨.w1Inline7C m c, isWord_encode h⟩

/-- The same, with the length octet's code read from it. -/
theorem exists_isWord_w1 {b : Octet} {e : List Octet} (he : e.length = extensionOctets (b.extractLsb' 0 7)) :
    ∃ i, IsWord .w1 (b :: e) i := by
  have hb : w1Octet b[7] (b.extractLsb' 0 7) = b := flagOctet_split b
  rw [← hb]
  exact exists_isWord_w1Octet _ he

/-- Octets that decode are a word. -/
theorem exists_isWord_of_decodes {sp : Space} {t : List Octet} {i : Instr} (h : decodeIn sp t = .ok i) : ∃ j, IsWord sp t j := by
  cases sp with
  | command =>
    match t, h with
    | cc :: p, h =>
      simp only [decodeIn, decodeCommand] at h
      split at h
      · next hp => exact exists_isWord_command hp
      · cases h
  | w0 =>
    match t, h with
    | [b], _ => exact exists_isWord_w0 b
  | w1 =>
    match t, h with
    | b :: e, h =>
      simp only [decodeIn, decodeW1] at h
      split at h
      · next he => exact exists_isWord_w1 he
      · cases h

/-- Settles O2: octets that decode are the word of some instruction, and by O1 that is the one they decode to. -/
theorem encodeDecodeRoundTrip : Obligations.EncodeDecodeRoundTrip := by
  intro sp t i h
  obtain ⟨j, rfl, rfl, hwf⟩ := exists_isWord_of_decodes h
  obtain rfl : i = j := Except.ok.inj (h.symm.trans (decodeEncodeRoundTrip j hwf))
  exact isWord_encode hwf

end Sys2Proof
end

section
/-! SUPPORT. The opcode table (spec/opcode_table.json): no octet matches two rows of a space, and every octet is the first of
some word of the space, which matches its own row. -/

namespace Sys2Proof.Laws

/-- Every well-formed instruction is encoded as a word of its own row. -/
theorem rowMatch : ∀ i : Instr, RowMatch.Statement i
  | .dechdr => RowMatch.dechdr | .enchdr opc fin => RowMatch.enchdr opc fin | .declen => RowMatch.declen
  | .enclen rsv m len => RowMatch.enclen rsv m len | .ldkey => RowMatch.ldkey | .setkey k0 k1 k2 k3 => RowMatch.setkey k0 k1 k2 k3
  | .stkey => RowMatch.stkey | .applymask a n => RowMatch.applymask a n | .ldbuf a n => RowMatch.ldbuf a n
  | .stbuf a n => RowMatch.stbuf a n | .wrbuf a v => RowMatch.wrbuf a v | .rdbuf a => RowMatch.rdbuf a
  | .rdreg r => RowMatch.rdreg r | .wrreg r v => RowMatch.wrreg r v | .reset => RowMatch.reset
  | .reserved00 => RowMatch.reserved00 | .reserved10 cc => RowMatch.reserved10 cc | .reserved20 cc => RowMatch.reserved20 cc
  | .reserved40 cc => RowMatch.reserved40 cc | .reserved80 cc => RowMatch.reserved80 cc
  | .w0Continuation fin => RowMatch.w0Continuation fin | .w0Text fin => RowMatch.w0Text fin
  | .w0Binary fin => RowMatch.w0Binary fin | .w0Unknown3 fin => RowMatch.w0Unknown3 fin
  | .w0Unknown4 fin => RowMatch.w0Unknown4 fin | .w0Unknown5 fin => RowMatch.w0Unknown5 fin
  | .w0Unknown6 fin => RowMatch.w0Unknown6 fin | .w0Unknown7 fin => RowMatch.w0Unknown7 fin | .w0Close fin => RowMatch.w0Close fin
  | .w0Ping fin => RowMatch.w0Ping fin | .w0Pong fin => RowMatch.w0Pong fin | .w0UnknownB fin => RowMatch.w0UnknownB fin
  | .w0UnknownC fin => RowMatch.w0UnknownC fin | .w0UnknownD fin => RowMatch.w0UnknownD fin
  | .w0UnknownE fin => RowMatch.w0UnknownE fin | .w0UnknownF fin => RowMatch.w0UnknownF fin
  | .w0RsvSet40 b => RowMatch.w0RsvSet40 b | .w0RsvSet20 b => RowMatch.w0RsvSet20 b | .w0RsvSet10 b => RowMatch.w0RsvSet10 b
  | .w1Inline00 m c => RowMatch.w1Inline00 m c | .w1Inline40 m c => RowMatch.w1Inline40 m c
  | .w1Inline60 m c => RowMatch.w1Inline60 m c | .w1Inline70 m c => RowMatch.w1Inline70 m c
  | .w1Inline78 m c => RowMatch.w1Inline78 m c | .w1Inline7C m c => RowMatch.w1Inline7C m c
  | .w1Ext16 m len => RowMatch.w1Ext16 m len | .w1Ext64 m len => RowMatch.w1Ext64 m len

end Sys2Proof.Laws

namespace Sys2Proof

/-- The row of every instruction is in the table. -/
theorem rowOf_mem_tableRows (i : Instr) : rowOf i ∈ tableRows := by
  cases i <;>
    simp only [rowOf, tableRows, commandRows, w0Rows, w1Rows, List.cons_append, List.nil_append, List.mem_cons, true_or, or_true]

/-- Any two rows of one space ask for different bits under what their masks share. -/
theorem tableRows_apart : tableRows.Pairwise fun r q => r.space = q.space → r.want &&& q.mask ≠ q.want &&& r.mask := by
  decide

/-- The row `r` of the space `sp` matches the octet `b` under its mask. -/
def rowMatches (sp : Space) (b : Octet) (r : Row) : Bool := r.space == sp && b &&& r.mask == r.want

theorem rowMatches_iff {sp : Space} {b : Octet} {r : Row} : rowMatches sp b r = true ↔ r.space = sp ∧ b &&& r.mask = r.want := by
  simp [rowMatches]

/-- A list of which no two elements satisfy a test has at most one that does. -/
theorem length_filter_le_one {α : Type} {test : α → Bool} {l : List α}
    (h : l.Pairwise fun r q => test r = true → test q ≠ true) : (l.filter test).length ≤ 1 := by
  have htest : ∀ r ∈ l.filter test, test r = true := fun r hr => (List.mem_filter.1 hr).2
  match l.filter test, h.filter test, htest with
  | [], _, _ => exact Nat.zero_le 1
  | [_], _, _ => exact Nat.le_refl 1
  | r :: q :: _, hpair, htest =>
    exact absurd (htest q (by simp)) (List.rel_of_pairwise_cons hpair (by simp) (htest r (by simp)))

/-- Every octet is the first of a word in every space. -/
theorem exists_isWord_cons (sp : Space) (b : Octet) : ∃ p i, IsWord sp (b :: p) i := by
  cases sp with
  | command => exact ⟨_, exists_isWord_command (List.length_replicate (a := 0))⟩
  | w0 => exact ⟨[], exists_isWord_w0 b⟩
  | w1 => exact ⟨_, exists_isWord_w1 (List.length_replicate (a := 0))⟩

/-- The first octet of a word matches the row of its instruction. -/
theorem rowMatches_of_isWord {sp : Space} {b : Octet} {p : List Octet} {i : Instr} (h : IsWord sp (b :: p) i) :
    rowMatches sp b (rowOf i) = true := by
  obtain ⟨henc, rfl, hwf⟩ := h
  obtain ⟨hfirst, -, hspace⟩ := Laws.rowMatch i hwf
  rw [henc] at hfirst
  exact rowMatches_iff.2 ⟨hspace, hfirst⟩

/-- Settles O3: no octet matches two rows, as they are apart, and the row of a word that begins with it matches. -/
theorem everyOctetHasOneRow : Obligations.EveryOctetHasOneRow := by
  intro sp b
  change (tableRows.filter (rowMatches sp b)).length = 1
  refine Nat.le_antisymm (length_filter_le_one (tableRows_apart.imp fun hapart hr hq => ?_)) ?_
  · obtain ⟨hrs, hrb⟩ := rowMatches_iff.1 hr
    obtain ⟨hqs, hqb⟩ := rowMatches_iff.1 hq
    exact and_ne_of_and_eq hrb (hapart (hrs.trans hqs.symm)) hqb
  · obtain ⟨p, i, hword⟩ := exists_isWord_cons sp b
    exact List.length_pos_of_mem (List.mem_filter.2 ⟨rowOf_mem_tableRows i, rowMatches_of_isWord hword⟩)

end Sys2Proof
end

section
/-! SUPPORT. Transfers of the command port that the rules single out: words written out, malformed transfers, reserved command
codes (R100 to R103, R107). -/

namespace Sys2Proof.Machine

/-- Settles O4: each word is decoded by evaluation. -/
theorem specWordsDecode : Obligations.SpecWordsDecode :=
  ⟨rfl, rfl, rfl, rfl, rfl, rfl, rfl, rfl, rfl, rfl⟩

/-- A transfer that does not decode is refused with the decoder's reason (U18). -/
theorem step_of_malformed {s : State} {t : List Octet} {e : DecodeError} {rest : List (List Octet)} (hport : s.port = t :: rest)
    (hdec : decodeCommand t = .error e) : step s = .refused (.malformedTransfer e) := by
  simp only [step, hport, hdec]

/-- Settles O6: the decoder's answer depends on the length of the transfer alone. -/
theorem malformedTransferIsRefused : Obligations.MalformedTransferIsRefused := by
  intro s t rest hport
  refine ⟨?_, ?_, ?_⟩
  · rintro rfl
    exact step_of_malformed hport rfl
  · rintro cc p rfl hlen
    exact step_of_malformed hport (if_neg hlen)
  · rintro cc p rfl hlen
    exact ⟨_, decodeCommand_of_length hlen⟩

/-- A reserved command raises `ReservedCommand`, whatever its row (R107, R275). -/
theorem exec_reserved {s : State} (hs : noError s) {i : Instr} (hi : ∀ u, exec i u = operate u reservedBody) :
    exec i s = .next (failedWith s 8) := by
  rw [hi, operate_of_noError hs, reservedBody, conclude_failed hs, errorCode]

/-- A code is decoded to a reserved row, with the code as it is. -/
theorem decodeReserved_cases (cc : Octet) : decodeReserved cc = .reserved00 ∨ decodeReserved cc = .reserved10 cc ∨
    decodeReserved cc = .reserved20 cc ∨ decodeReserved cc = .reserved40 cc ∨ decodeReserved cc = .reserved80 cc := by
  unfold decodeReserved
  split_ifs <;> simp

/-- Settles O34: the five rows have one body, and a reserved code is a whole transfer. -/
theorem reservedCommandRaises : Obligations.ReservedCommandRaises := by
  refine ⟨fun s hs => ?_, fun cc hcc => ⟨decodeReserved cc, ?_, decodeReserved_cases cc⟩⟩
  · have raises {i : Instr} := exec_reserved hs (i := i)
    exact ⟨raises fun _ => rfl, fun cc => ⟨raises fun _ => rfl, raises fun _ => rfl, raises fun _ => rfl, raises fun _ => rfl⟩⟩
  · obtain rfl | hcc := hcc
    · rfl
    · rw [decodeCommand_of_length (p := []) (operandOctets_reserved hcc).symm, decodeOperands_reserved hcc]

end Sys2Proof.Machine
end

section
/-! SUPPORT. The spelling of responses (R104). -/

namespace Sys2Proof.Machine

/-- The octet that spells an error determines its code. -/
theorem setWidth_code_injective {c d : BitVec 4} (h : c.setWidth 8 = d.setWidth 8) : c = d := by
  simpa using congrArg (BitVec.setWidth 4) h

theorem bytes64_injective {v w : U64} (h : bytes64 v = bytes64 w) : v = w := by
  rw [← u64At_bytes64 v, h, u64At_bytes64]

/-- An error other than 0 is not spelled as `OK` is. -/
theorem responseOctets_err_ne_ok {c : BitVec 4} (h : Response.err c ≠ .err 0) : responseOctets (.err c) ≠ responseOctets .ok :=
  fun heq => h (congrArg _ (setWidth_code_injective (d := 0) (List.cons.inj heq).1))

/-- Settles O58: the number of octets tells `OK(v)` from the others, and the octets spell the value or the code. -/
theorem responseOctetsAreInjective : Obligations.ResponseOctetsAreInjective := by
  refine ⟨fun r q hr hq h => ?_, fun v => ⟨rfl, rfl, by simp [responseOctets]⟩, fun c => by simp [responseOctets], rfl⟩
  cases r <;> cases q
  case ok.ok => rfl
  case okValue.okValue v w => rw [bytes64_injective (List.cons.inj h).2]
  case err.err c d => rw [setWidth_code_injective (List.cons.inj h).1]
  case ok.err c => exact absurd h.symm (responseOctets_err_ne_ok hq)
  case err.ok c => exact absurd h (responseOctets_err_ne_ok hr)
  all_goals exact absurd (congrArg List.length h) (by simp [responseOctets])

end Sys2Proof.Machine
end

section
/-! SUPPORT. `DECHDR` and `DECLEN` on the forms of their wire formats (R91 to R96, R105, R132, R153): the octets that arrive are
taken, and what they spell is written. -/

namespace Sys2Proof.Machine

/-! ### Leading octets -/

/-- The reserved bits of a leading octet are 0 (R91). -/
theorem w0Octet_reserved_bits : ∀ (fin : Bool) (opcode : BitVec 4), w0Octet fin opcode &&& 0x70 = 0 := by decide

@[simp] theorem w0Octet_flag (fin : Bool) (opcode : BitVec 4) : (w0Octet fin opcode)[7] = fin := flagOctet_flag _ _

@[simp] theorem w0Octet_low (fin : Bool) (opcode : BitVec 4) : (w0Octet fin opcode).extractLsb' 0 7 = opcode.setWidth 7 :=
  flagOctet_low _ _

/-- A leading octet with its reserved bits 0 arrives and is decoded (R132). -/
theorem receiveLeading_w0Octet {s : State} (hs : noError s) (fin : Bool) (opcode : BitVec 4) :
    receiveLeading (w0Octet fin opcode) s = .next { s with opc := opcode.setWidth 7, fin := fin, status := withHdrv s.status,
                                                           responses := s.responses ++ [.ok] } := by
  have hlegal : w0Octet fin opcode &&& 0x70 = 0 := w0Octet_reserved_bits fin opcode
  rw [receiveLeading, operate_of_noError (s := arrive s _) hs, dechdrBody_decodes (s := arrive s _) rfl hlegal]
  simp [respond, setHeader, arrive]

/-- Settles O35: each row is the leading octet of its opcode. -/
theorem leadingOctetRowsDecode : Obligations.LeadingOctetRowsDecode := by
  intro s fin hs i opcode hrow
  simp only [List.mem_cons, Prod.mk.injEq, List.not_mem_nil, or_false] at hrow
  obtain ⟨rfl, rfl⟩ | ⟨rfl, rfl⟩ | ⟨rfl, rfl⟩ | ⟨rfl, rfl⟩ | ⟨rfl, rfl⟩ | ⟨rfl, rfl⟩ | ⟨rfl, rfl⟩ | ⟨rfl, rfl⟩ | ⟨rfl, rfl⟩ |
    ⟨rfl, rfl⟩ | ⟨rfl, rfl⟩ | ⟨rfl, rfl⟩ | ⟨rfl, rfl⟩ | ⟨rfl, rfl⟩ | ⟨rfl, rfl⟩ | ⟨rfl, rfl⟩ := hrow
  all_goals exact receiveLeading_w0Octet hs fin _

/-- A leading octet with a reserved bit set arrives and is rejected, the octet taken (R105, R273). -/
theorem receiveLeading_reserved {s : State} (hs : noError s) {b : Octet} (hb : b &&& 0x70 ≠ 0) :
    receiveLeading b s = .next (failedWith s 3) := by
  rw [receiveLeading, operate_of_noError (s := arrive s _) hs, dechdrBody_reserved (s := arrive s _) rfl hb]
  exact congrArg _ (conclude_failed hs .reservedBitsSet)

/-- An octet that matches a row with a reserved bit set has one set. -/
theorem reserved_bit_of_matches8 {b mask want : Octet} (h : matches8 b mask want = true) (hrow : want &&& 0x70 ≠ 0) :
    b &&& 0x70 ≠ 0 :=
  and_ne_of_and_eq (eq_of_beq h) (by simpa using hrow)

/-- Settles O36: a reserved bit is set in each row, and the rows cover all such octets. -/
theorem reservedBitRowsAreRejected : Obligations.ReservedBitRowsAreRejected := by
  refine ⟨fun s b hs => ⟨fun h => ?_, fun h => ?_, fun h => ?_⟩, fun b hb => ?_⟩
  · exact receiveLeading_reserved hs (reserved_bit_of_matches8 h (by decide))
  · exact receiveLeading_reserved hs (reserved_bit_of_matches8 h (by decide))
  · exact receiveLeading_reserved hs (reserved_bit_of_matches8 h (by decide))
  · simpa [WellFormed, or_assoc] using matches_reserved_row hb

/-! ### Length fields -/

/-- A 16-bit length at the front of RXS (R95). -/
theorem decodeLength_ext16_front {s : State} {m : Bool} (hm : m = true ∨ rxreq s.ctrl = false) {n : BitVec 16} {rest : List Octet}
    (hrx : s.rxs = bytes16 n ++ rest) : decodeLength s m 126 = (setLength { s with rxs := rest } (n.setWidth 64) m, .ok) := by
  rw [decodeLength_ext16 s hm]
  simpa using readExtension_front s m (fun e => (u16At e 0).setWidth 64) (bytes16 n) rest hrx

/-- A 64-bit length at the front of RXS (R96). -/
theorem decodeLength_ext64_front {s : State} {m : Bool} (hm : m = true ∨ rxreq s.ctrl = false) {n : U64} {rest : List Octet}
    (hrx : s.rxs = bytes64 n ++ rest) : decodeLength s m 127 = (setLength { s with rxs := rest } n m, .ok) := by
  rw [decodeLength_ext64 s hm]
  simpa using readExtension_front s m (fun e => u64At e 0) (bytes64 n) rest hrx

/-- `DECLEN` on a length octet that spells `m` and `c`, the block ready (R153). -/
theorem operate_declenBody {s : State} (hs : noError s) {b : Octet} {e : List Octet} (hrx : s.rxs = b :: e) {m : Bool}
    {c : BitVec 7} (hb : unpackLen7 b = (m, c)) : operate s declenBody = .next (conclude (decodeLength { s with rxs := e } m c)) := by
  rw [operate_of_noError hs, declenBody_octet hrx, hb]

/-- A length field arrives and is decoded (R153). -/
theorem receiveLength_w1Octet {s : State} (hs : noError s) (m : Bool) (c : BitVec 7) (e : List Octet) :
    receiveLength (w1Octet m c :: e) s = .next (conclude (decodeLength (arrive s e) m c)) :=
  operate_declenBody (s := arrive s _) hs rfl (unpackLen7_w1Octet m c)

/-- A row of length fields is its field, arrived and decoded. -/
theorem exec_w1 {i : Instr} (hi : i.space = .w1) (s : State) : exec i s = receiveLength (encode i) s := by
  cases i with
  | w1Inline00 | w1Inline40 | w1Inline60 | w1Inline70 | w1Inline78 | w1Inline7C | w1Ext16 | w1Ext64 => rfl
  | _ => cases hi

/-- A length field begins with a length octet. -/
theorem encode_w1 {i : Instr} (hi : i.space = .w1) : ∃ m c e, encode i = w1Octet m c :: e := by
  cases i with
  | w1Inline00 | w1Inline40 | w1Inline60 | w1Inline70 | w1Inline78 | w1Inline7C | w1Ext16 | w1Ext64 => exact ⟨_, _, _, rfl⟩
  | _ => cases hi

/-- An inline length arrives and is decoded (R94). -/
theorem receiveLength_inline {s : State} (hs : noError s) {m : Bool} (hm : m = true ∨ rxreq s.ctrl = false) {c : BitVec 7}
    (h6 : c ≠ 126) (h7 : c ≠ 127) :
    receiveLength [w1Octet m c] s = .next (respond (setLength s (BitVec.ofNat 64 c.toNat) m) .ok) := by
  rw [receiveLength_w1Octet hs, arrive_nil, decodeLength_inline s hm h6 h7, conclude_ok, BitVec.ofNat_toNat]

/-- Settles O37: a decoded field leaves RXS as it was behind it; the mask flag is tested before the extension is read. -/
theorem lengthFieldRowsDecode : Obligations.LengthFieldRowsDecode := by
  refine fun s m hs => ⟨fun hm => ⟨fun i c hrow hwf => ?_, fun n => ?_, fun n => ?_⟩, fun hm hreq i hi _ hflag => ?_⟩
  · simp only [List.mem_cons, List.not_mem_nil, or_false] at hrow
    obtain rfl | rfl | rfl | rfl | rfl | rfl := hrow
    all_goals exact receiveLength_inline hs hm (ne_of_matches7 hwf (by decide)) (ne_of_matches7 hwf (by decide))
  · rw [exec_w1 rfl, encode, receiveLength_w1Octet hs, decodeLength_ext16_front (s := arrive s _) hm rfl, conclude_ok,
      BitVec.ofNat_toNat]
    rfl
  · rw [exec_w1 rfl, encode, receiveLength_w1Octet hs, decodeLength_ext64_front (s := arrive s _) hm rfl, conclude_ok]
    rfl
  · obtain ⟨m', c, e, henc⟩ := encode_w1 hi
    obtain rfl : m' = false := by simpa [henc, hm] using hflag
    rw [exec_w1 hi, henc, receiveLength_w1Octet hs, decodeLength_maskRequired (arrive s e) c hreq]
    exact congrArg _ (conclude_failed (s := arrive s e) hs .maskBitRequired)

/-! ### DECLEN -/

/-- The length code is what is left of a length octet without its flag (R93). -/
theorem lengthCode_toNat (b : Octet) : (b.extractLsb' 0 7).toNat = (b &&& 0x7F).toNat := by
  rw [BitVec.extractLsb'_toNat]
  exact (Nat.and_two_pow_sub_one_eq_mod _ 7).symm

/-- The length code of an octet, when its low seven bits are known. -/
theorem unpackLen7_of_and {b : Octet} {c : BitVec 7} (h : (b &&& 0x7F).toNat = c.toNat) : unpackLen7 b = (b.getLsbD 7, c) :=
  Prod.ext rfl (BitVec.eq_of_toNat_eq ((lengthCode_toNat b).trans h))

/-- `be16` as a 64-bit number. -/
theorem be16_setWidth (e0 e1 : Octet) : (be16 e0 e1).setWidth 64 = BitVec.ofNat 64 (e0.toNat * 256 + e1.toNat) := by
  apply BitVec.eq_of_toNat_eq
  rw [BitVec.toNat_setWidth, be16, BitVec.toNat_ofNat, BitVec.toNat_ofNat]
  omega

/-- `DECLEN` on an inline length (R94). -/
theorem exec_declen_inline {s : State} (hs : noError s) {m : Bool} (hm : m = true ∨ rxreq s.ctrl = false) {b : Octet}
    {c : BitVec 7} {rest : List Octet} (hrx : s.rxs = b :: rest) (hb : unpackLen7 b = (m, c)) (h6 : c ≠ 126) (h7 : c ≠ 127) :
    exec .declen s = .next (respond (setLength { s with rxs := rest } (c.setWidth 64) m) .ok) := by
  rw [exec, execDeclen, operate_declenBody hs hrx hb, decodeLength_inline { s with rxs := rest } hm h6 h7, conclude_ok]

/-- `DECLEN` on a 16-bit length (R95). -/
theorem exec_declen_ext16 {s : State} (hs : noError s) {m : Bool} (hm : m = true ∨ rxreq s.ctrl = false) {b : Octet}
    {n : BitVec 16} {rest : List Octet} (hrx : s.rxs = b :: (bytes16 n ++ rest)) (hb : unpackLen7 b = (m, 126)) :
    exec .declen s = .next (respond (setLength { s with rxs := rest } (n.setWidth 64) m) .ok) := by
  rw [exec, execDeclen, operate_declenBody hs hrx hb, decodeLength_ext16_front (s := { s with rxs := bytes16 n ++ rest }) hm rfl,
    conclude_ok]

/-- `DECLEN` on a 64-bit length (R96). -/
theorem exec_declen_ext64 {s : State} (hs : noError s) {m : Bool} (hm : m = true ∨ rxreq s.ctrl = false) {b : Octet}
    {n : U64} {rest : List Octet} (hrx : s.rxs = b :: (bytes64 n ++ rest)) (hb : unpackLen7 b = (m, 127)) :
    exec .declen s = .next (respond (setLength { s with rxs := rest } n m) .ok) := by
  rw [exec, execDeclen, operate_declenBody hs hrx hb, decodeLength_ext64_front (s := { s with rxs := bytes64 n ++ rest }) hm rfl,
    conclude_ok]

/-- Settles O17: one tier after the other; two or eight octets spell the number that they are the big-endian digits of. -/
theorem declenDecodes : Obligations.DeclenDecodes := by
  refine fun s b hs hm => ⟨fun rest hrx hc => ?_, fun e0 e1 rest hrx hc => ?_, fun e0 e1 e2 e3 e4 e5 e6 e7 rest hrx hc => ?_⟩
  · have hcode {c : BitVec 7} (hlarge : 125 < c.toNat) : b.extractLsb' 0 7 ≠ c := fun h => by
      rw [← h, lengthCode_toNat] at hlarge
      omega
    rw [exec_declen_inline hs hm hrx rfl (hcode (by decide)) (hcode (by decide)), ← lengthCode_toNat, BitVec.ofNat_toNat]
    rfl
  · have hfield : s.rxs = b :: (bytes16 (be16 e0 e1) ++ rest) := by rw [hrx, bytes16_be16]; rfl
    rw [exec_declen_ext16 hs hm hfield (unpackLen7_of_and (by rw [hc]; rfl)), be16_setWidth]
    rfl
  · have hfield : s.rxs = b :: (bytes64 (be64 e0 e1 e2 e3 e4 e5 e6 e7) ++ rest) := by rw [hrx, bytes64_be64]; rfl
    rw [exec_declen_ext64 hs hm hfield (unpackLen7_of_and (by rw [hc]; rfl))]
    rfl

end Sys2Proof.Machine
end

section
/-! SUPPORT. Every instruction answers once (R104): `exec` has a next state in every state, and a body that ends in a value is
that of `RDREG` or `RDBUF`. -/

namespace Sys2Proof.Machine

/-- The outcome of a body is no value. -/
def noValue (r : State × Ending) : Prop := ∀ v, r.2 ≠ .value v

/-! ### The pieces that bodies are made of -/

theorem noValue_ok (s : State) : noValue (s, .ok) := fun _ h => by cases h

theorem noValue_error (s : State) (e : ErrorCode) : noValue (s, .error e) := fun _ h => by cases h

theorem noValue_ite {P : Prop} [Decidable P] {yes no : State × Ending} (hyes : noValue yes) (hno : noValue no) :
    noValue (if P then yes else no) := by
  split
  · exact hyes
  · exact hno

theorem noValue_send (s : State) (l : List Octet) : noValue (send s l) := by
  obtain ⟨-, h⟩ | ⟨c, -, -, h⟩ := send_cases s l <;> rw [h]
  · exact noValue_ok _
  · exact noValue_error _ _

/-! ### The bodies -/

theorem dechdrBody_noValue (s : State) : noValue (dechdrBody s) := by
  obtain ⟨-, h⟩ | ⟨b, rest, -, -, h⟩ | ⟨b, rest, -, -, h⟩ := dechdrBody_cases s <;> rw [h]
  · exact noValue_error _ _
  · exact noValue_error _ _
  · exact noValue_ok _

theorem declenBody_noValue (s : State) : noValue (declenBody s) := by
  obtain ⟨e, rest, h, -⟩ | ⟨n, m, rest, h, -⟩ := declenBody_cases s <;> rw [h]
  · exact noValue_error _ _
  · exact noValue_ok _

theorem ldkeyBody_noValue (s : State) : noValue (ldkeyBody s) := by
  obtain ⟨-, h⟩ | ⟨-, h⟩ := rxRead_cases s 4 <;> simp only [ldkeyBody, h]
  · exact noValue_ok _
  · exact noValue_error _ _

theorem ldbufBody_noValue (a n : U64) (s : State) : noValue (ldbufBody a n s) := by
  refine noValue_ite ?_ (noValue_error _ _)
  obtain ⟨-, h⟩ | ⟨-, h⟩ := rxRead_cases s n.toNat <;> simp only [h]
  · exact noValue_ok _
  · exact noValue_error _ _

/-- A body that ends in a value is that of `RDREG` or `RDBUF`. -/
theorem bodyOf_noValue (i : Instr) (s : State) : noValue (bodyOf i s) ∨ (∃ a, i = .rdbuf a) ∨ ∃ n, i = .rdreg n := by
  cases i with
  | rdbuf a => exact .inr (.inl ⟨a, rfl⟩)
  | rdreg n => exact .inr (.inr ⟨n, rfl⟩)
  | dechdr => exact .inl (dechdrBody_noValue s)
  | declen => exact .inl (declenBody_noValue s)
  | enchdr | enclen | stkey => exact .inl (noValue_ite (noValue_error _ _) (noValue_send _ _))
  | ldkey => exact .inl (ldkeyBody_noValue s)
  | setkey | reset => exact .inl (noValue_ok _)
  | applymask => exact .inl (noValue_ite (noValue_error _ _) (noValue_ite (noValue_ok _) (noValue_error _ _)))
  | wrreg => exact .inl (noValue_ite (noValue_error _ _) (noValue_ite (noValue_error _ _) (noValue_ok _)))
  | ldbuf a n => exact .inl (ldbufBody_noValue a n s)
  | stbuf => exact .inl (noValue_ite (noValue_send _ _) (noValue_error _ _))
  | wrbuf => exact .inl (noValue_ite (noValue_ok _) (noValue_error _ _))
  | reserved00 | reserved10 | reserved20 | reserved40 | reserved80 => exact .inl (noValue_error _ _)
  | w1Inline00 | w1Inline40 | w1Inline60 | w1Inline70 | w1Inline78 | w1Inline7C | w1Ext16 | w1Ext64 =>
    exact .inl (declenBody_noValue _)
  | _ => exact .inl (dechdrBody_noValue _)

/-! ### The answer -/

/-- An instruction has a next state in every state: it runs its body, or it is refused. -/
theorem exec_has_next (i : Instr) (s : State) : exec i s = .next (conclude (bodyOf i (arrive s (wireOctets i)))) ∨
    exec i s = .next (refuse (arrive s (wireOctets i))) := by
  by_cases hs : noError s
  · exact .inl (exec_of_noError hs i)
  · cases hi : runsInErrorState i with
    | true => exact .inl (exec_of_runsInErrorState hi s)
    | false => exact .inr (exec_of_errorState hs hi)

/-- The response is a value only when the body ends in one. -/
theorem conclude_answers_value (r : State × Ending) :
    ∃ a, (conclude r).responses = r.1.responses ++ [a] ∧ ∀ v, a = .okValue v → r.2 = .value v := by
  obtain ⟨s, e⟩ := r
  cases e with
  | ok => exact ⟨.ok, rfl, fun _ h => by cases h⟩
  | value v => exact ⟨.okValue v, rfl, fun _ h => by cases h; rfl⟩
  | error e => exact ⟨.err (errorCode e), by simp [raise], fun _ h => by cases h⟩

/-- Settles O41: the conclusion appends one response, a value only for a body that ends in one; a refusal appends an error. -/
theorem everyInstructionResponds : Obligations.EveryInstructionResponds := by
  intro i s
  obtain h | h := exec_has_next i s
  · obtain ⟨r, hr, hvalue⟩ := conclude_answers_value (bodyOf i (arrive s (wireOctets i)))
    rw [(bodyOf_effect i _).responses] at hr
    refine ⟨_, r, h, hr, fun v hv => ?_⟩
    exact (bodyOf_noValue i _).resolve_left fun hno => hno v (hvalue v hv)
  · exact ⟨_, .err (errOf s.status), h, rfl, fun _ hv => by cases hv⟩

end Sys2Proof.Machine
end

section
/-! SUPPORT. SENDFRAME (R245 to R249) as one stream of octets: each operation of the sequence sends octets or none, and a TX
stream that falls short in any of them has taken the first octets of the whole. -/

namespace Sys2Proof.Machine

/-! ### Capacity -/

/-- Room for two writes is room for the first, and room for the second after it (R69). -/
theorem hasRoom_add {cap : Capacity} {m n : Nat} (h : hasRoom cap (m + n)) : hasRoom cap m ∧ hasRoom (capacityAfter cap m) n := by
  cases cap with
  | unlimited => exact ⟨rfl, rfl⟩
  | octets c =>
    rw [hasRoom_octets] at h
    exact ⟨(hasRoom_octets c m).2 (by omega), (hasRoom_octets (c - m) n).2 (by omega)⟩

/-- The capacity after two writes is the capacity after both at once (R69). -/
theorem capacityAfter_add (cap : Capacity) (m n : Nat) : capacityAfter (capacityAfter cap m) n = capacityAfter cap (m + n) := by
  cases cap with
  | unlimited => rfl
  | octets c => simp only [capacityAfter, Nat.sub_sub]

/-! ### Parts of a sequence that send octets -/

/-- The part `o` of a host sequence, begun in `s`, sends the octets `l`: where the TX stream has room for them it ends in `t`,
where it falls short it fails with `TxShort`. -/
structure Emits (o : HostOutcome U64) (s : State) (l : List Octet) (t : State) : Prop where
  /-- No error is latched at the end. -/
  ready : noError t
  /-- RXS is untouched. -/
  rxs : t.rxs = s.rxs
  /-- The octets are appended to TXS. -/
  txs : t.txs = s.txs ++ l
  /-- The octets leave TXCAP. -/
  txcap : t.txcap = capacityAfter s.txcap l.length
  /-- With room, the part succeeds. -/
  room : hasRoom s.txcap l.length → o = .next (t, .ok 0)
  /-- With too little room, the stream takes what it can and the part fails. -/
  short : ∀ c, s.txcap = .octets c → c < l.length → ∃ u, o = .next (u, .error (.block 2)) ∧ errOf u.status = 2 ∧
    u.rxs = s.rxs ∧ u.txs = s.txs ++ l.take c ∧ u.txcap = .octets 0

/-- One part after the other sends the octets of both. -/
theorem Emits.andThen {o : HostOutcome U64} {s t u : State} {l l' : List Octet} {k : U64 → State → HostOutcome U64}
    (h : Emits o s l t) (h' : Emits (k 0 t) t l' u) : Emits (andThen o k) s (l ++ l') u where
  ready := h'.ready
  rxs := h'.rxs.trans h.rxs
  txs := by rw [h'.txs, h.txs, List.append_assoc]
  txcap := by rw [h'.txcap, h.txcap, capacityAfter_add, List.length_append]
  room := fun hroom => by
    rw [List.length_append] at hroom
    obtain ⟨hl, hl'⟩ := hasRoom_add hroom
    rw [h.room hl, andThen_ok, h'.room (by rwa [h.txcap])]
  short := fun c hc hlt => by
    rw [List.length_append] at hlt
    rcases Nat.lt_or_ge c l.length with hcl | hcl
    · obtain ⟨v, hv, herr, hrxs, htxs, htxcap⟩ := h.short c hc hcl
      exact ⟨v, by rw [hv, andThen_error], herr, hrxs, by rw [htxs, List.take_append_of_le_length hcl.le], htxcap⟩
    · have hroom : hasRoom s.txcap l.length := by rw [hc]; exact (hasRoom_octets c _).2 hcl
      have ht : t.txcap = .octets (c - l.length) := by rw [h.txcap, hc, capacityAfter]
      obtain ⟨v, hv, herr, hrxs, htxs, htxcap⟩ := h'.short _ ht (by omega)
      refine ⟨v, by rw [h.room hroom, andThen_ok, hv], herr, hrxs.trans h.rxs, ?_, htxcap⟩
      rw [htxs, h.txs, List.append_assoc, List.take_append, List.take_of_length_le hcl]

/-- A part that succeeds and leaves the streams alone sends nothing. -/
theorem emits_nil {o : HostOutcome U64} {s t : State} (h : o = .next (t, .ok 0)) (ht : noError t) (hrxs : t.rxs = s.rxs)
    (htxs : t.txs = s.txs) (htxcap : t.txcap = s.txcap) : Emits o s [] t where
  ready := ht
  rxs := hrxs
  txs := by rw [htxs, List.append_nil]
  txcap := by rw [htxcap]; cases s.txcap <;> rfl
  room := fun _ => h
  short := fun _ _ hlt => absurd hlt (Nat.not_lt_zero _)

/-! ### What the block holds between the operations -/

/-- `BUF[a ..]` holds the octets `l`, inside the buffer. -/
def HoldsPayload (s : State) (a : Nat) (l : List Octet) : Prop := inRange s a l.length ∧ bufSlice s a l.length = l

/-- The masking key `k` is loaded (R26). -/
def HasKey (s : State) (k : Key) : Prop := keyvOf s.status = true ∧ s.key = k

theorem HoldsPayload.of_same_buffer {s t : State} {a : Nat} {l : List Octet} (h : HoldsPayload s a l) (hbuf : t.buf = s.buf)
    (hcap : t.bufcap = s.bufcap) : HoldsPayload t a l := by
  obtain ⟨hrange, hslice⟩ := h
  exact ⟨by rwa [inRange, hcap], (bufSlice_congr hbuf a l.length).trans hslice⟩

/-- Octets that have been written inside the buffer are there. -/
theorem holdsPayload_of_written {s t : State} {a : Nat} {l : List Octet} (hrange : inRange t a l.length)
    (hbuf : t.buf = Memory.writeList s.buf a l) : HoldsPayload t a l := ⟨hrange, bufSlice_writeList hbuf⟩

/-- Whatever payload and key `s` holds, `t` holds. -/
structure Keeps (s t : State) : Prop where
  payload : ∀ {a : Nat} {l : List Octet}, HoldsPayload s a l → HoldsPayload t a l
  key : ∀ {k : Key}, HasKey s k → HasKey t k

/-! ### The operations of SENDFRAME -/

/-- An operation whose body sends `l` sends `l`, and keeps what the block holds (R69, R70, R272). -/
theorem emits_send {i : Instr} {s : State} (hs : noError s) {l : List Octet} (h : exec i s = .next (conclude (send s l))) :
    ∃ t, Emits (issue i s) s l t ∧ Keeps s t := by
  refine ⟨respond { s with txs := s.txs ++ l, txcap := capacityAfter s.txcap l.length } .ok, ?_, ?_⟩
  · refine { ready := hs, rxs := rfl, txs := rfl, txcap := rfl, room := fun hroom => ?_, short := fun c hc hlt => ?_ }
    · rw [issue_next h, send_room hroom, conclude_ok, answer_respond]
    · have hfail := conclude_failed (s := { s with txs := s.txs ++ l.take c, txcap := .octets 0 }) hs .txShort
      rw [issue_next h, send_short hc hlt, hfail, answer_failedWith]
      exact ⟨_, rfl, errOf_withErr _ _, rfl, rfl, rfl⟩
  · exact { payload := fun hp => hp.of_same_buffer rfl rfl, key := id }

theorem emits_enchdr {s : State} (hs : noError s) {opc : BitVec 7} (hopc : opc.toNat ≤ 15) (fin : Bool) :
    ∃ t, Emits (issue (.enchdr opc fin) s) s [packHeader opc fin] t ∧ Keeps s t :=
  emits_send hs (by rw [exec, execEnchdr, operate_of_noError hs, enchdrBody, if_neg (Nat.not_lt.2 hopc)])

theorem emits_enclen {s : State} (hs : noError s) (m : Bool) (len : U64) :
    ∃ t, Emits (issue (.enclen 0 m len) s) s (packLength len m) t ∧ Keeps s t :=
  emits_send hs (by rw [exec, execEnclen, operate_of_noError hs, enclenBody, if_neg (not_not.2 rfl)])

theorem emits_stkey {s : State} (hs : noError s) {k : Key} (hk : HasKey s k) :
    ∃ t, Emits (issue .stkey s) s (keyOctets k) t ∧ Keeps s t := by
  obtain ⟨hvalid, rfl⟩ := hk
  exact emits_send hs (by rw [exec, execStkey, operate_of_noError hs, stkeyBody, if_neg (by simp [hvalid])])

theorem emits_stbuf {s : State} (hs : noError s) {a n : U64} {l : List Octet} (hn : n.toNat = l.length)
    (hp : HoldsPayload s a.toNat l) : ∃ t, Emits (issue (.stbuf a n) s) s l t ∧ Keeps s t := by
  obtain ⟨hrange, hslice⟩ := hp
  refine emits_send hs ?_
  rw [exec, execStbuf, operate_of_noError hs, stbufBody, hn, if_pos hrange, hslice]

/-- An operation that answers `OK` and leaves the streams alone sends nothing. -/
theorem emits_issue_nil {i : Instr} {s t : State} (h : exec i s = .next (respond t .ok)) (ht : noError t) (hrxs : t.rxs = s.rxs)
    (htxs : t.txs = s.txs) (htxcap : t.txcap = s.txcap) : Emits (issue i s) s [] (respond t .ok) :=
  emits_nil (by rw [issue_next h, answer_respond]) ht hrxs htxs htxcap

/-- An operation that is left out sends nothing. -/
theorem emits_issueIf_false {s : State} (hs : noError s) (i : Instr) : Emits (issueIf false i s) s [] s :=
  emits_nil (issueIf_false i s) hs rfl rfl rfl

theorem emits_setkey {s : State} (hs : noError s) (k : Key) : ∃ t, Emits (issue (.setkey k.k0 k.k1 k.k2 k.k3) s) s [] t ∧
    HasKey t k ∧ ∀ {a l}, HoldsPayload s a l → HoldsPayload t a l := by
  have hexec : exec (.setkey k.k0 k.k1 k.k2 k.k3) s = .next (respond (setKey s k) .ok) := by
    rw [exec, execSetkey, operate_of_noError hs, setkeyBody, conclude_ok]
  exact ⟨_, emits_issue_nil hexec ((errOf_withKeyv _).trans hs) rfl rfl rfl, ⟨keyvOf_withKeyv _, rfl⟩,
    fun hp => hp.of_same_buffer rfl rfl⟩

theorem emits_applymask {s : State} (hs : noError s) {k : Key} (hk : HasKey s k) {a n : U64} {l : List Octet}
    (hn : n.toNat = l.length) (hp : HoldsPayload s a.toNat l) :
    ∃ t, Emits (issue (.applymask a n) s) s [] t ∧ HoldsPayload t a.toNat (maskOctets l k) := by
  obtain ⟨hvalid, rfl⟩ := hk
  obtain ⟨hrange, hslice⟩ := hp
  have hexec : exec (.applymask a n) s = .next (respond (setBuf s a.toNat (maskOctets l s.key)) .ok) := by
    rw [exec, execApplymask, operate_of_noError hs, applymaskBody, if_neg (by simp [hvalid]), hn, if_pos hrange, hslice,
      conclude_ok]
  exact ⟨_, emits_issue_nil hexec hs rfl rfl rfl,
    holdsPayload_of_written (s := s) (by rwa [maskOctets_length]) rfl⟩

theorem emits_writePayload {s : State} (hs : noError s) {a : Nat} {l : List Octet} (hrange : inRange s a l.length) :
    ∃ t, Emits (writePayload a l s) s [] t ∧ HoldsPayload t a l :=
  ⟨_, emits_nil (writePayload_inside hs hrange) hs rfl rfl rfl, holdsPayload_of_written (s := s) hrange rfl⟩

/-! ### The sequence -/

/-- What a frame to send is made of: an opcode that fits its field, and a payload whose length is a 64-bit number (R230, R248). -/
theorem frameContent_bounds {f : Frame} {opc : BitVec 7} {payload : List Octet} (h : frameContent f = some (opc, payload)) :
    opc.toNat ≤ 15 ∧ (BitVec.ofNat 64 payload.length).toNat = payload.length := by
  cases f with
  | invalid => cases h
  | close reason => cases h; exact ⟨by decide, rfl⟩
  | text p | binary p | ping p | pong p => cases h; exact ⟨by decide, Nat.mod_eq_of_lt p.property⟩

/-- A client's frame goes out behind its key, the payload masked (R246, R248, R249). -/
theorem emits_sendFrame_client {s : State} {f : Frame} {p : U64} (k : Key) {opc : BitVec 7} {payload : List Octet}
    (hf : frameContent f = some (opc, payload)) (hs : noError s) (hrange : inRange s p.toNat payload.length) :
    ∃ t, Emits (sendFrame f .client p k s) s (frameOctets opc true (some k) payload) t := by
  obtain ⟨hopc, hlen⟩ := frameContent_bounds hf
  obtain ⟨_, copied, hpayload⟩ := emits_writePayload hs hrange
  obtain ⟨_, header, keeps⟩ := emits_enchdr copied.ready hopc true
  replace hpayload := keeps.payload hpayload
  obtain ⟨_, length, keeps⟩ := emits_enclen header.ready true (BitVec.ofNat 64 payload.length)
  replace hpayload := keeps.payload hpayload
  obtain ⟨_, loaded, hkey, keeps⟩ := emits_setkey length.ready k
  replace hpayload := keeps hpayload
  obtain ⟨_, key, keeps⟩ := emits_stkey loaded.ready hkey
  obtain ⟨_, masked, hmasked⟩ := emits_applymask key.ready (keeps.key hkey) hlen (keeps.payload hpayload)
  obtain ⟨_, sent, -⟩ := emits_stbuf masked.ready (by rw [hlen, maskOctets_length]) hmasked
  have hwire : frameOctets opc true (some k) payload = [] ++ ([packHeader opc true] ++
    (packLength (BitVec.ofNat 64 payload.length) true ++ ([] ++ (keyOctets k ++ ([] ++ maskOctets payload k))))) := rfl
  rw [sendFrame, hf, hwire]
  exact ⟨_, copied.andThen <| header.andThen <| length.andThen <| loaded.andThen <| key.andThen <| masked.andThen sent⟩

/-- A server's frame goes out with its payload as it is (R246, R248). -/
theorem emits_sendFrame_server {s : State} {f : Frame} {p : U64} (k : Key) {opc : BitVec 7} {payload : List Octet}
    (hf : frameContent f = some (opc, payload)) (hs : noError s) (hrange : inRange s p.toNat payload.length) :
    ∃ t, Emits (sendFrame f .server p k s) s (frameOctets opc true none payload) t := by
  obtain ⟨hopc, hlen⟩ := frameContent_bounds hf
  obtain ⟨_, copied, hpayload⟩ := emits_writePayload hs hrange
  obtain ⟨_, header, keeps⟩ := emits_enchdr copied.ready hopc true
  replace hpayload := keeps.payload hpayload
  obtain ⟨_, length, keeps⟩ := emits_enclen header.ready false (BitVec.ofNat 64 payload.length)
  replace hpayload := keeps.payload hpayload
  have skip := emits_issueIf_false length.ready
  obtain ⟨_, sent, -⟩ := emits_stbuf length.ready hlen hpayload
  have hwire : frameOctets opc true none payload = [] ++ ([packHeader opc true] ++
    (packLength (BitVec.ofNat 64 payload.length) false ++ ([] ++ ([] ++ ([] ++ payload))))) := rfl
  rw [sendFrame, hf, hwire]
  exact ⟨_, copied.andThen <| header.andThen <| length.andThen <| (skip _).andThen <| (skip _).andThen <| (skip _).andThen sent⟩

/-- SENDFRAME sends the frame's wire format (R246 to R249). -/
theorem emits_sendFrame {s : State} {f : Frame} (role : Role) {p : U64} (k : Key) {opc : BitVec 7} {payload : List Octet}
    (hf : frameContent f = some (opc, payload)) (hs : noError s) (hrange : inRange s p.toNat payload.length) :
    ∃ t, Emits (sendFrame f role p k s) s (frameOctets opc true (if role = .client then some k else none) payload) t := by
  cases role with
  | client => exact emits_sendFrame_client k hf hs hrange
  | server => exact emits_sendFrame_server k hf hs hrange

/-- Settles O52: both clauses are what it means that the sequence sends the wire format. -/
theorem sendFrameEmitsWireFormat : Obligations.SendFrameEmitsWireFormat := by
  rintro s f role p k opc payload wire hf hs hc rfl
  obtain ⟨t, h⟩ := emits_sendFrame role k hf hs hc
  exact ⟨fun hroom => ⟨t, h.room hroom, h.ready, h.rxs, h.txs, h.txcap⟩, h.short⟩

end Sys2Proof.Machine
end

section
/-! SUPPORT. The header codec (R130 to R134): the octet of an opcode and a flag, `DECHDR` and `ENCHDR` path by path, and a wire
row as the decoding operation on a stream that begins with the row's octets. -/

namespace Sys2Proof.Machine

/-! ### pack_header and unpack_header -/

/-- An opcode of at most 15 is its low four bits (R22). -/
theorem opcode_low_bits {opc : BitVec 7} (h : opc.toNat ≤ 15) : (opc.extractLsb' 0 4).setWidth 7 = opc := by
  apply BitVec.eq_of_toNat_eq
  simp only [BitVec.toNat_setWidth, BitVec.extractLsb'_toNat, Nat.shiftRight_zero]
  omega

/-- A packed header is its flag and its opcode, for an opcode of at most 15 (R131). -/
theorem packHeader_eq_flagOctet {opc : BitVec 7} (h : opc.toNat ≤ 15) (fin : Bool) : packHeader opc fin = flagOctet fin opc := by
  rw [packHeader, opcode_low_bits h]

/-- A packed header unpacks to what it was packed from (R134). -/
theorem unpackHeader_packHeader {opc : BitVec 7} (h : opc.toNat ≤ 15) (fin : Bool) :
    unpackHeader (packHeader opc fin) = some (opc, fin) := by
  have hlegal : packHeader opc fin &&& 0x70 = 0 := w0Octet_reserved_bits fin (opc.extractLsb' 0 4)
  rw [unpackHeader_legal hlegal, packHeader_eq_flagOctet h]
  simp

/-- The opcode of a legal leading octet is at most 15 (R22). -/
theorem opcode_le_of_legal_octet {b : Octet} (h : b &&& 0x70 = 0) : (b.extractLsb' 0 7).toNat ≤ 15 := by
  rw [opcode_of_legal_octet h, BitVec.toNat_setWidth]
  omega

/-- A legal leading octet is packed from its own fields (R134). -/
theorem packHeader_fields {b : Octet} (h : b &&& 0x70 = 0) : packHeader (b.extractLsb' 0 7) (b.getLsbD 7) = b := by
  rw [packHeader_eq_flagOctet (opcode_le_of_legal_octet h)]
  exact flagOctet_split b

/-- Settles O7: the fields of a packed header read back, a legal octet is put together again, and no other octet unpacks. -/
theorem headerCodecIsBijective : Obligations.HeaderCodecIsBijective :=
  ⟨fun _ fin h => unpackHeader_packHeader h fin,
    fun _ hb => ⟨_, _, unpackHeader_legal hb, opcode_le_of_legal_octet hb, packHeader_fields hb⟩,
    fun _ hb => unpackHeader_reserved hb⟩

/-! ### DECHDR -/

/-- Bit 7 of an octet, tested under its mask. -/
theorem getLsbD_seven_eq (b : Octet) : b.getLsbD 7 = (b &&& 0x80 != 0) := by
  change _ = (b &&& BitVec.twoPow 8 7 != 0)
  rw [BitVec.and_twoPow]
  cases b.getLsbD 7 <;> rfl

/-- `DECHDR` on an ended stream (R132, R272). -/
theorem exec_dechdr_ended {s : State} (hs : noError s) (hrx : s.rxs = []) : exec .dechdr s = .next (failedWith s 1) := by
  rw [exec, execDechdr, operate_of_noError hs, dechdrBody_ended hrx, conclude_failed hs, errorCode]

/-- `DECHDR` on a leading octet with a reserved bit set (R132, R273). -/
theorem exec_dechdr_reserved {s : State} (hs : noError s) {b : Octet} {rest : List Octet} (hrx : s.rxs = b :: rest)
    (hb : b &&& 0x70 ≠ 0) : exec .dechdr s = .next (failedWith { s with rxs := rest } 3) := by
  rw [exec, execDechdr, operate_of_noError hs, dechdrBody_reserved hrx hb,
    conclude_failed (s := { s with rxs := rest }) hs, errorCode]

/-- Settles O14: an ended stream, a reserved bit, or a legal octet, whose fields are its bits under the masks. -/
theorem dechdrDecodesOrFails : Obligations.DechdrDecodesOrFails := by
  refine fun s hs => ⟨exec_dechdr_ended hs, fun b rest => exec_dechdr_reserved hs, fun b rest hrx hb => ?_⟩
  rw [exec_dechdr_legal hs hrx hb, ← lengthCode_toNat, BitVec.ofNat_toNat, BitVec.setWidth_eq, ← getLsbD_seven_eq]
  rfl

/-! ### ENCHDR -/

/-- `{b, low}` is a number: the flag's weight is 128 (R7). -/
theorem flagOctet_eq_ofNat (b : Bool) (low : BitVec 7) :
    flagOctet b low = BitVec.ofNat 8 ((if b then 0x80 else 0) + low.toNat) := by
  have hapart : (if b then 0x80 else 0x00 : Octet) &&& low.setWidth 8 = 0 := by
    ext k hk
    interval_cases k <;> cases b <;> simp
  rw [flagOctet, ← BitVec.add_eq_or_of_and_eq_zero _ _ hapart, BitVec.ofNat_add, BitVec.ofNat_toNat]
  cases b <;> rfl

/-- `ENCHDR` with an opcode outside the field (R133, R275). -/
theorem exec_enchdr_outside {s : State} (hs : noError s) {opc : BitVec 7} (h : 15 < opc.toNat) (fin : Bool) :
    exec (.enchdr opc fin) s = .next (failedWith s 5) := by
  rw [exec, execEnchdr, operate_of_noError hs, enchdrBody, if_pos h, conclude_failed hs, errorCode]

/-- `ENCHDR` with an opcode that fits sends the packed header (R133). -/
theorem exec_enchdr_inside {s : State} (hs : noError s) {opc : BitVec 7} (h : opc.toNat ≤ 15) (fin : Bool) :
    exec (.enchdr opc fin) s = .next (conclude (send s [packHeader opc fin])) := by
  rw [exec, execEnchdr, operate_of_noError hs, enchdrBody, if_neg (Nat.not_lt.2 h)]

/-- Settles O16: the opcode is tested first, then the one octet is sent or refused. -/
theorem enchdrSendsOrFails : Obligations.EnchdrSendsOrFails := by
  refine fun s opc fin hs => ⟨fun h => exec_enchdr_outside hs h fin, fun h hcap => ?_, fun h hroom => ⟨?_, ?_, ?_⟩⟩
  · rw [exec_enchdr_inside hs h, send_noRoom (l := [packHeader opc fin]) hcap Nat.one_pos, conclude_failed hs, errorCode]
  · rw [packHeader_eq_flagOctet h, flagOctet_eq_ofNat]
  · rw [encode, packHeader_eq_flagOctet h]
  · rw [exec_enchdr_inside hs h, send_room hroom, conclude_ok]
    rfl

/-! ### Wire rows -/

/-- Octets that are taken from the front of RXS and arrive again leave the state as it was. -/
theorem arrive_taken {s : State} {l rest : List Octet} (hrx : s.rxs = l ++ rest) : arrive { s with rxs := rest } l = s := by
  rw [arrive, ← hrx]

/-- A row of leading octets is its octet, arrived and decoded (log entry 8). -/
theorem exec_w0 {i : Instr} (hi : i.space = .w0) (s : State) : exec i s = operate (arrive s (encode i)) dechdrBody := by
  cases i with
  | w0Continuation | w0Text | w0Binary | w0Unknown3 | w0Unknown4 | w0Unknown5 | w0Unknown6 | w0Unknown7 | w0Close | w0Ping
  | w0Pong | w0UnknownB | w0UnknownC | w0UnknownD | w0UnknownE | w0UnknownF | w0RsvSet40 | w0RsvSet20 | w0RsvSet10 => rfl
  | _ => cases hi

/-- Settles O38: by O2 the row that octets decode to is encoded as those octets, which arrive where they were taken. -/
theorem decodeOperationsRunWireRows : Obligations.DecodeOperationsRunWireRows := by
  refine ⟨fun s b rest hrx => ?_, fun s field rest i hdec hrx => ?_⟩
  · obtain ⟨henc, hspace, -⟩ := encodeDecodeRoundTrip .w0 [b] (decodeLeading b) rfl
    rw [exec_w0 hspace, henc, arrive_taken (l := [b]) hrx, exec, execDechdr]
  · obtain ⟨rfl, hspace, -⟩ := encodeDecodeRoundTrip .w1 field i hdec
    rw [exec_w1 hspace, receiveLength, arrive_taken hrx, exec, execDeclen]

end Sys2Proof.Machine
end

section
/-! SUPPORT. The payload length transport (R150 to R155): `pack_length` tier by tier and as numbers, `decode_octets` by length
code, `DECLEN` on a cut field, and `ENCLEN` path by path. -/

namespace Sys2Proof.Machine

/-! ### decode_octets -/

/-- The code of a 16-bit length has two extension octets (R95). -/
theorem extensionOctets_ext16 : extensionOctets 126 = 2 := rfl

/-- The code of a 64-bit length has eight extension octets (R96). -/
theorem extensionOctets_ext64 : extensionOctets 127 = 8 := rfl

/-- An inline length, whatever follows (R94). -/
theorem decodeOctets_inline (m : Bool) {c : BitVec 7} (h6 : c ≠ 126) (h7 : c ≠ 127) (rest : List Octet) :
    decodeOctets (w1Octet m c :: rest) = some (c.setWidth 64, m, rest) := by
  rw [decodeOctets, unpackLen7_w1Octet, extensionOctets_inline h6 h7, if_neg (Nat.not_lt_zero _), if_neg h6, if_neg h7]

/-- A 16-bit length, whatever follows (R95). -/
theorem decodeOctets_ext16 (m : Bool) (n : BitVec 16) (rest : List Octet) :
    decodeOctets (w1Octet m 126 :: (bytes16 n ++ rest)) = some (n.setWidth 64, m, rest) := by
  have hlen : ¬(bytes16 n ++ rest).length < extensionOctets 126 := by
    rw [List.length_append, bytes16_length, extensionOctets_ext16]
    omega
  rw [decodeOctets, unpackLen7_w1Octet, if_neg hlen, if_pos rfl, u16At_bytes16_append, List.drop_left' (bytes16_length n)]

/-- A 64-bit length, whatever follows (R96). -/
theorem decodeOctets_ext64 (m : Bool) (n : U64) (rest : List Octet) :
    decodeOctets (w1Octet m 127 :: (bytes64 n ++ rest)) = some (n, m, rest) := by
  have hlen : ¬(bytes64 n ++ rest).length < extensionOctets 127 := by
    rw [List.length_append, bytes64_length, extensionOctets_ext64]
    omega
  rw [decodeOctets, unpackLen7_w1Octet, if_neg hlen, if_neg (c := (127 : BitVec 7) = 126) (by decide), if_pos rfl,
    u64At_bytes64_append, List.drop_left' (bytes64_length n)]

/-- The low seven bits of a length of at most 125 are that length, so no code of another tier (R94, R97). -/
theorem setWidth_ne_of_inline {len : U64} (h : len.toNat ≤ 125) {c : BitVec 7} (hc : 125 < c.toNat) : len.setWidth 7 ≠ c := by
  rintro rfl
  rw [BitVec.toNat_setWidth] at hc
  omega

/-- Settles O8: each tier reads back, and its length fits in the bits the tier sends. -/
theorem lengthRoundTrip : Obligations.LengthRoundTrip := by
  intro len m rest
  by_cases h1 : len.toNat ≤ 125
  · have h6 : len.setWidth 7 ≠ 126 := setWidth_ne_of_inline h1 (by decide)
    have h7 : len.setWidth 7 ≠ 127 := setWidth_ne_of_inline h1 (by decide)
    have hfits : len < BitVec.twoPow 64 7 := BitVec.lt_def.2 (h1.trans_lt (by decide))
    rw [packLength_inline m h1, List.singleton_append, decodeOctets_inline m h6 h7, BitVec.setWidth_setWidth_eq_self hfits]
  by_cases h2 : len.toNat ≤ 65535
  · have hfits : len < BitVec.twoPow 64 16 := BitVec.lt_def.2 (h2.trans_lt (by decide))
    rw [packLength_ext16 m (Nat.not_le.1 h1) h2, List.cons_append, decodeOctets_ext16, BitVec.setWidth_setWidth_eq_self hfits]
  · rw [packLength_ext64 m (Nat.not_le.1 h2), List.cons_append, decodeOctets_ext64]

/-! ### The shortest encoding -/

/-- The size of a packed length (R152). -/
theorem packLength_length (len : U64) (m : Bool) :
    (packLength len m).length = if len.toNat ≤ 125 then 1 else if len.toNat ≤ 65535 then 3 else 9 := by
  unfold packLength tierOf
  split_ifs <;> rfl

/-- A code of neither extended tier is at most 125 (R97). -/
theorem lengthCode_le_of_inline {c : BitVec 7} (h6 : c ≠ 126) (h7 : c ≠ 127) : c.toNat ≤ 125 := by
  bv_omega

/-- What reads as a length field has the size of one of the tiers, and spells a length that the tier can spell. -/
theorem decodeOctets_cases {l rest : List Octet} {len : U64} {m : Bool} (h : decodeOctets l = some (len, m, rest)) :
    (len.toNat ≤ 125 ∧ l.length = 1 + rest.length) ∨ (len.toNat ≤ 65535 ∧ l.length = 3 + rest.length) ∨
    l.length = 9 + rest.length := by
  cases l with
  | nil => cases h
  | cons b l =>
    rw [decodeOctets] at h
    split_ifs at h with hcut h6 h7
    · cases h
      rw [h6, extensionOctets_ext16] at hcut
      rw [BitVec.toNat_setWidth, List.length_cons, List.length_drop]
      omega
    · cases h
      rw [h7, extensionOctets_ext64] at hcut
      rw [List.length_cons, List.length_drop]
      omega
    · cases h
      have hle := lengthCode_le_of_inline h6 h7
      rw [BitVec.toNat_setWidth, List.length_cons]
      omega

/-- Settles O9: a tier of fewer octets does not spell the length. -/
theorem packLengthIsShortest : Obligations.PackLengthIsShortest := by
  intro len m
  rw [packLength_length]
  refine ⟨⟨fun h => ?_, fun h h' => ?_, fun h => ?_⟩, fun l hl => ?_⟩
  · rw [if_pos h]
  · rw [if_neg (Nat.not_le.2 h), if_pos h']
  · rw [if_neg (by omega), if_neg (Nat.not_le.2 h)]
  · have hsize := decodeOctets_cases hl
    rw [List.length_nil] at hsize
    split_ifs <;> omega

/-! ### pack_length as numbers -/

theorem w1Octet_toNat (m : Bool) (c : BitVec 7) : (w1Octet m c).toNat = (if m then 0x80 else 0) + c.toNat := by
  rw [w1Octet, flagOctet_eq_ofNat, BitVec.toNat_ofNat]
  split <;> omega

theorem map_toNat_bytes16 (v : BitVec 16) : (bytes16 v).map BitVec.toNat = [v.toNat / 256, v.toNat % 256] := by
  simp only [bytes16, List.map_cons, List.map_nil, BitVec.extractLsb'_toNat, Nat.shiftRight_eq_div_pow, List.cons.injEq, and_true]
  omega

theorem map_toNat_bytes64 (v : U64) : (bytes64 v).map BitVec.toNat =
    [v.toNat / 256 ^ 7, v.toNat / 256 ^ 6 % 256, v.toNat / 256 ^ 5 % 256, v.toNat / 256 ^ 4 % 256, v.toNat / 256 ^ 3 % 256,
     v.toNat / 256 ^ 2 % 256, v.toNat / 256 % 256, v.toNat % 256] := by
  simp only [bytes64, List.map_cons, List.map_nil, BitVec.extractLsb'_toNat, Nat.shiftRight_eq_div_pow, Nat.reducePow,
    List.cons.injEq, true_and, and_true]
  omega

/-- Settles O10: the length octet is its flag and its code, and the extension is the digits of a length that it does not cut. -/
theorem packLengthOctets : Obligations.PackLengthOctets := by
  refine fun len m => ⟨fun h => ?_, fun h h' => ?_, fun h => ?_⟩
  · rw [packLength_inline m h, List.map_singleton, w1Octet_toNat, BitVec.toNat_setWidth, Nat.mod_eq_of_lt (by omega)]
  · rw [packLength_ext16 m h h', List.map_cons, w1Octet_toNat, map_toNat_bytes16, BitVec.toNat_setWidth,
      Nat.mod_eq_of_lt (by omega)]
    rfl
  · rw [packLength_ext64 m h, List.map_cons, w1Octet_toNat, map_toNat_bytes64]
    rfl

/-! ### DECLEN on a cut field -/

/-- `DECLEN` on an ended stream (R153, R272). -/
theorem exec_declen_ended {s : State} (hs : noError s) (hrx : s.rxs = []) : exec .declen s = .next (failedWith s 1) := by
  rw [exec, execDeclen, operate_of_noError hs, declenBody_ended hrx, conclude_failed hs, errorCode]

/-- `DECLEN` on a field whose extension of `x` octets is cut: the stream is used up (R68, R153, R272). -/
theorem conclude_readExtension_short {s : State} (hs : noError s) (m : Bool) {x : Nat} (value : List Octet → U64)
    (hshort : s.rxs.length < x) : conclude (readExtension s m x value) = failedWith { s with rxs := [] } 1 := by
  rw [readExtension_short m value hshort]
  exact conclude_failed (s := { s with rxs := [] }) hs .rxShort

/-- Settles O19: no length octet, or one whose tier reads more than is left. -/
theorem declenShortStream : Obligations.DeclenShortStream := by
  refine fun s hs => ⟨exec_declen_ended hs, fun b rest hrx hm hcut => ?_⟩
  obtain ⟨hc, hshort⟩ | ⟨hc, hshort⟩ := hcut
  · rw [exec, execDeclen, operate_declenBody hs hrx (unpackLen7_of_and (c := 126) (by rw [hc]; rfl)),
      decodeLength_ext16 { s with rxs := rest } hm, conclude_readExtension_short (s := { s with rxs := rest }) hs _ _ hshort]
  · rw [exec, execDeclen, operate_declenBody hs hrx (unpackLen7_of_and (c := 127) (by rw [hc]; rfl)),
      decodeLength_ext64 { s with rxs := rest } hm, conclude_readExtension_short (s := { s with rxs := rest }) hs _ _ hshort]

/-! ### ENCLEN -/

/-- `ENCLEN` with a reserved operand bit set (R154, R277). -/
theorem exec_enclen_reserved {s : State} (hs : noError s) {rsv : BitVec 7} (h : rsv ≠ 0) (m : Bool) (len : U64) :
    exec (.enclen rsv m len) s = .next (failedWith s 9) := by
  rw [exec, execEnclen, operate_of_noError hs, enclenBody, if_pos h, conclude_failed hs, errorCode]

/-- `ENCLEN` with its reserved operand bits 0 sends the packed length (R154). -/
theorem exec_enclen_packed {s : State} (hs : noError s) (m : Bool) (len : U64) :
    exec (.enclen 0 m len) s = .next (conclude (send s (packLength len m))) := by
  rw [exec, execEnclen, operate_of_noError hs, enclenBody, if_neg (not_not.2 rfl)]

/-- Settles O20: the reserved bits are tested first, then the packed length is sent, whole or cut. -/
theorem enclenSendsOrFails : Obligations.EnclenSendsOrFails := by
  refine fun s rsv m len hs => ⟨fun h => exec_enclen_reserved hs h m len, ?_, ?_⟩
  · rintro c rfl hcap hshort
    rw [exec_enclen_packed hs, send_short hcap hshort]
    exact congrArg _ (conclude_failed (s := { s with txs := s.txs ++ (packLength len m).take c, txcap := .octets 0 }) hs .txShort)
  · rintro rfl hroom
    rw [exec_enclen_packed hs, send_room hroom, conclude_ok]
    rfl

end Sys2Proof.Machine
end

section
/-! SUPPORT. The masking transform (R170 to R175): `mask_octets` octet by octet, the key operations path by path, and `APPLYMASK`
as the masking of a range of BUF. -/

namespace Sys2Proof.Machine

/-! ### mask_octets -/

/-- A key octet is chosen from the list of four (R170). -/
theorem keyOctet_eq_getElem (k : Key) (i : Nat) :
    keyOctet k i = [k.k0, k.k1, k.k2, k.k3][i % 4]'(Nat.mod_lt i (by decide)) := by
  obtain h | h | h | h : i % 4 = 0 ∨ i % 4 = 1 ∨ i % 4 = 2 ∨ i % 4 = 3 := by omega
  all_goals simp [keyOctet, h]

/-- The key octet depends on the index modulo 4 alone. -/
theorem keyOctet_congr (k : Key) {i j : Nat} (h : i % 4 = j % 4) : keyOctet k i = keyOctet k j := by
  rw [keyOctet, h, keyOctet]

/-- Place `j` of the rotated key (R175 (d)). -/
theorem keyOctet_rotKey (k : Key) (r j : Nat) : keyOctet (rotKey k r) j = keyOctet k (r + j) := by
  have hplaces : ∀ q < 4, keyOctet (rotKey k r) q = keyOctet k (r + q) := fun q hq => by interval_cases q <;> rfl
  calc keyOctet (rotKey k r) j
    _ = keyOctet (rotKey k r) (j % 4) := keyOctet_congr _ (Nat.mod_mod j 4).symm
    _ = keyOctet k (r + j % 4) := hplaces (j % 4) (Nat.mod_lt j (by decide))
    _ = keyOctet k (r + j) := keyOctet_congr k (by omega)

/-- Octet `j` of a masked list whose first octet takes the key octet of index `i`. -/
@[simp] theorem maskFrom_getElem (k : Key) (i : Nat) (p : List Octet) (j : Nat) (h : j < (maskFrom k i p).length) :
    (maskFrom k i p)[j] = p[j]'(by simpa using h) ^^^ keyOctet k (i + j) := by
  induction p generalizing i j with
  | nil => simp [maskFrom] at h
  | cons b p ih =>
    cases j with
    | zero => rfl
    | succ j => simp only [maskFrom, List.getElem_cons_succ, ih, Nat.succ_add_eq_add_succ]

/-- Octet `i` of a masked list (R170). -/
@[simp] theorem maskOctets_getElem (p : List Octet) (k : Key) (i : Nat) (h : i < (maskOctets p k).length) :
    (maskOctets p k)[i] = p[i]'(by simpa using h) ^^^ keyOctet k i := by
  simp [maskOctets]

/-- Masking from index `i` on is masking with a key that holds, from its place 0 on, what the key holds from `i` on. -/
theorem maskFrom_eq_maskOctets {k k' : Key} {i : Nat} (h : ∀ j, keyOctet k (i + j) = keyOctet k' j) (p : List Octet) :
    maskFrom k i p = maskOctets p k' :=
  List.ext_getElem (by simp) fun j _ _ => by rw [maskFrom_getElem, maskOctets_getElem, h]

/-- The second of two pieces goes on with the key where the first stops. -/
theorem maskFrom_append (k : Key) (i : Nat) (p q : List Octet) :
    maskFrom k i (p ++ q) = maskFrom k i p ++ maskFrom k (i + p.length) q := by
  induction p generalizing i with
  | nil => rfl
  | cons b p ih => simp [maskFrom, ih, Nat.add_comm p.length 1, Nat.add_assoc]

/-- The second piece of a masked list begins at the index that the first piece's length is. -/
theorem maskOctets_append (p q : List Octet) (k : Key) :
    maskOctets (p ++ q) k = maskOctets p k ++ maskFrom k p.length q := by
  rw [maskOctets, maskFrom_append, Nat.zero_add, ← maskOctets]

/-- XOR with one octet twice is no change. -/
theorem xor_xor_same (b k : Octet) : b ^^^ k ^^^ k = b := by
  rw [BitVec.xor_assoc, BitVec.xor_self, BitVec.xor_zero]

/-- Settles O11: the octet read at each index, with the key octet as one of the list of four. -/
theorem maskOctetsElementwise : Obligations.MaskOctetsElementwise := by
  refine fun p k => ⟨maskOctets_length p k, fun i h => ?_⟩
  rw [List.getElem?_eq_getElem (by simpa using h), maskOctets_getElem, keyOctet_eq_getElem]

/-- Settles O12: each octet is XORed with the same key octet twice. -/
theorem maskInvolution : Obligations.MaskInvolution :=
  fun p k => List.ext_getElem (by simp) fun i _ _ => by rw [maskOctets_getElem, maskOctets_getElem, xor_xor_same]

/-- Settles O13: the second piece begins at key index `length(p1)`, which is place 0 of the rotated key. -/
theorem maskSplitting : Obligations.MaskSplitting := by
  refine fun p1 p2 k => ⟨?_, fun hwhole => ?_⟩
  · have hrot : ∀ j, keyOctet k (p1.length + j) = keyOctet (rotKey k (p1.length % 4)) j := fun j => by
      rw [keyOctet_rotKey]
      exact keyOctet_congr k (by omega)
    rw [maskOctets_append, maskFrom_eq_maskOctets hrot]
  · have hsame : ∀ j, keyOctet k (p1.length + j) = keyOctet k j := fun j => keyOctet_congr k (by omega)
    rw [maskOctets_append, maskFrom_eq_maskOctets hsame]

/-! ### LDKEY, SETKEY and STKEY -/

/-- `LDKEY` with the key's octets at the front of the stream (R171). -/
theorem exec_ldkey_front {s : State} (hs : noError s) {k : Key} {rest : List Octet} (hrx : s.rxs = keyOctets k ++ rest) :
    exec .ldkey s = .next (respond (setKey { s with rxs := rest } k) .ok) := by
  have hread : rxRead s 4 = (some (keyOctets k), { s with rxs := rest }) := rxRead_front s (keyOctets k) rest hrx
  rw [exec, execLdkey, operate_of_noError hs, ldkeyBody, hread]
  rfl

/-- `LDKEY` on a short stream uses it up (R68, R171). -/
theorem exec_ldkey_short {s : State} (hs : noError s) (hshort : s.rxs.length < 4) :
    exec .ldkey s = .next (failedWith { s with rxs := [] } 1) := by
  rw [exec, execLdkey, operate_of_noError hs, ldkeyBody, rxRead_short hshort]
  exact congrArg _ (conclude_failed (s := { s with rxs := [] }) hs .rxShort)

/-- Settles O21: the four octets at the front are the octets of the key, or the stream is short. -/
theorem ldkeyLoads : Obligations.LdkeyLoads :=
  fun _ hs => ⟨fun k0 k1 k2 k3 _ hrx => exec_ldkey_front hs (k := ⟨k0, k1, k2, k3⟩) hrx, exec_ldkey_short hs⟩

/-- Settles O22: no check stands before the key is set. -/
theorem setkeyLoads : Obligations.SetkeyLoads := by
  intro s k0 k1 k2 k3 hs
  rw [exec, execSetkey, operate_of_noError hs, setkeyBody, conclude_ok]
  rfl

/-- `STKEY` with no valid key (R173, R275). -/
theorem exec_stkey_invalid {s : State} (hs : noError s) (h : keyvOf s.status = false) :
    exec .stkey s = .next (failedWith s 7) := by
  rw [exec, execStkey, operate_of_noError hs, stkeyBody, if_pos h, conclude_failed hs, errorCode]

/-- `STKEY` with a valid key sends its octets (R173). -/
theorem exec_stkey_valid {s : State} (hs : noError s) (h : keyvOf s.status = true) :
    exec .stkey s = .next (conclude (send s (keyOctets s.key))) := by
  rw [exec, execStkey, operate_of_noError hs, stkeyBody, if_neg (by simp [h])]

/-- Settles O23: the valid bit is tested first, then the key's octets are sent, whole or cut. -/
theorem stkeySends : Obligations.StkeySends := by
  refine fun s hs => ⟨exec_stkey_invalid hs, fun h hroom => ?_, fun c h hcap hshort => ?_⟩
  · rw [exec_stkey_valid hs h, send_room (l := keyOctets s.key) hroom, conclude_ok]
    rfl
  · rw [exec_stkey_valid hs h, send_short (l := keyOctets s.key) hcap hshort]
    exact congrArg _ (conclude_failed (s := { s with txs := s.txs ++ (keyOctets s.key).take c, txcap := .octets 0 }) hs .txShort)

/-! ### APPLYMASK -/

/-- The range of `n` octets from `a` masked with KEY, the key index counting from `a` (R174). -/
def maskRange (s : State) (a n : Nat) : State := setBuf s a (maskOctets (bufSlice s a n) s.key)

theorem maskRange_buf (s : State) (a n : Nat) :
    (maskRange s a n).buf = Memory.writeList s.buf a (maskOctets (bufSlice s a n) s.key) := rfl

theorem bufRead_maskRange_inside (s : State) (a : Nat) {n i : Nat} (h : i < n) :
    bufRead (maskRange s a n) (a + i) = bufRead s (a + i) ^^^ keyOctet s.key i := by
  rw [bufRead_writeList_inside (maskRange_buf s a n) (by simpa using h), maskOctets_getElem, bufSlice_getElem]

theorem bufRead_maskRange_outside (s : State) {a n x : Nat} (h : ¬(a ≤ x ∧ x < a + n)) :
    bufRead (maskRange s a n) x = bufRead s x :=
  bufRead_writeList_outside (maskRange_buf s a n) (by simpa using h)

/-- A range masked, and masked again in a state with that buffer and the same key, reads as it did (R175 (a)). -/
theorem bufRead_maskRange_again {s t : State} {a n : Nat} (hbuf : t.buf = (maskRange s a n).buf) (hkey : t.key = s.key) (x : Nat) :
    bufRead (maskRange t a n) x = bufRead s x := by
  by_cases hx : a ≤ x ∧ x < a + n
  · obtain ⟨i, rfl⟩ := Nat.exists_eq_add_of_le hx.1
    have hi : i < n := Nat.add_lt_add_iff_left.1 hx.2
    rw [bufRead_maskRange_inside t a hi, hkey, bufRead_congr hbuf, bufRead_maskRange_inside s a hi, xor_xor_same]
  · rw [bufRead_maskRange_outside t hx, bufRead_congr hbuf, bufRead_maskRange_outside s hx]

/-- `APPLYMASK` with no valid key, whatever the range (R174, R275). -/
theorem exec_applymask_invalid {s : State} (hs : noError s) (h : keyvOf s.status = false) (a n : U64) :
    exec (.applymask a n) s = .next (failedWith s 7) := by
  rw [exec, execApplymask, operate_of_noError hs, applymaskBody, if_pos h, conclude_failed hs, errorCode]

/-- `APPLYMASK` on a range that leaves the buffer (R67, R174). -/
theorem exec_applymask_outside {s : State} (hs : noError s) (h : keyvOf s.status = true) {a n : U64}
    (hrange : s.bufcap < a.toNat + n.toNat) : exec (.applymask a n) s = .next (failedWith s 6) := by
  rw [exec, execApplymask, operate_of_noError hs, applymaskBody, if_neg (by simp [h]), if_neg (Nat.not_le.2 hrange),
    conclude_failed hs, errorCode]

/-- `APPLYMASK` with a valid key and a range inside the buffer masks the range (R174). -/
theorem exec_applymask_inside {s : State} (hs : noError s) (h : keyvOf s.status = true) {a n : U64}
    (hrange : a.toNat + n.toNat ≤ s.bufcap) :
    exec (.applymask a n) s = .next (respond (maskRange s a.toNat n.toNat) .ok) := by
  rw [exec, execApplymask, operate_of_noError hs, applymaskBody, if_neg (by simp [h]), if_pos hrange, conclude_ok, maskRange]

/-- Settles O24: the valid bit, then the range, then the masking of the range, inside and outside. -/
theorem applymaskTransforms : Obligations.ApplymaskTransforms := by
  refine fun s a n hs => ⟨fun h => exec_applymask_invalid hs h a n, fun h => exec_applymask_outside hs h, fun h hrange => ?_⟩
  exact ⟨_, exec_applymask_inside hs h hrange, fun _ => bufRead_maskRange_inside s a.toNat,
    fun _ => bufRead_maskRange_outside s, rfl⟩

/-- Settles O25: the first `APPLYMASK` keeps the key, its valid bit and the latch, so the second masks the same range back. -/
theorem applymaskTwiceRestores : Obligations.ApplymaskTwiceRestores := by
  intro s a n hs h hrange
  have hagain := exec_applymask_inside (s := respond (maskRange s a.toNat n.toNat) .ok) hs h hrange
  exact ⟨_, _, exec_applymask_inside hs h hrange, hagain, bufRead_maskRange_again (respond_buf _ _) rfl,
    List.append_assoc _ _ _, rfl⟩

end Sys2Proof.Machine
end

section
/-! SUPPORT. Buffer transfer (R190 to R193): the range check that the four operations share, `LDBUF` and `STBUF` path by path. -/

namespace Sys2Proof.Machine

/-- An operation that begins with the range check raises `BufferRange`, and does nothing else, on a range that leaves the
buffer (R67). -/
theorem exec_outside_buffer {i : Instr} {s : State} (hs : noError s) {a n : Nat} {inside : State → State × Ending}
    (hi : ∀ u, exec i u = operate u fun v => if inRange v a n then inside v else (v, .error .bufferRange))
    (hrange : s.bufcap < a + n) : exec i s = .next (failedWith s 6) := by
  rw [hi, operate_of_noError hs, if_neg (Nat.not_le.2 hrange), conclude_failed hs, errorCode]

/-! ### LDBUF -/

/-- `LDBUF` inside the buffer on a short stream uses the stream up and leaves free octets in the range (R68, R190). -/
theorem exec_ldbuf_short {s : State} (hs : noError s) {a n : U64} (hrange : a.toNat + n.toNat ≤ s.bufcap)
    (hshort : s.rxs.length < n.toNat) :
    exec (.ldbuf a n) s = .next (failedWith (spoilRange { s with rxs := [] } a.toNat n.toNat) 1) := by
  rw [exec, execLdbuf, operate_of_noError hs, ldbufBody, if_pos hrange, rxRead_short hshort]
  exact congrArg _ (conclude_failed (s := spoilRange { s with rxs := [] } a.toNat n.toNat) hs .rxShort)

/-- `LDBUF` inside the buffer with enough octets moves them from the stream into the range (R190). -/
theorem exec_ldbuf_enough {s : State} (hs : noError s) {a n : U64} (hrange : a.toNat + n.toNat ≤ s.bufcap)
    (henough : n.toNat ≤ s.rxs.length) :
    exec (.ldbuf a n) s =
      .next (respond (setBuf { s with rxs := s.rxs.drop n.toNat } a.toNat (s.rxs.take n.toNat)) .ok) := by
  rw [exec, execLdbuf, operate_of_noError hs, ldbufBody, if_pos hrange, rxRead_enough henough, conclude_ok]

/-- Settles O26: both paths inside the buffer write a list of `n` octets, so the octets outside the range stay; on success the
list is the front of the stream. -/
theorem ldbufLoads : Obligations.LdbufLoads := by
  refine fun s a n hs => ⟨exec_outside_buffer hs fun _ => rfl, fun hrange hshort => ?_, fun hrange henough => ?_⟩
  · exact ⟨_, exec_ldbuf_short hs hrange hshort,
      fun x hx => bufRead_writeList_outside (p := freeOctets s.draws a.toNat n.toNat) rfl (by rwa [freeOctets_length]), rfl⟩
  · have hlength : (s.rxs.take n.toNat).length = n.toNat := List.length_take_of_le henough
    refine ⟨_, exec_ldbuf_enough hs hrange henough, fun i hi => ?_, fun x hx => ?_, rfl⟩
    · rw [bufRead_writeList_inside (s := s) (p := s.rxs.take n.toNat) rfl (by rwa [hlength]), List.getElem_take,
        List.getElem?_eq_getElem]
    · exact bufRead_writeList_outside (p := s.rxs.take n.toNat) rfl (by rwa [hlength])

/-! ### STBUF -/

/-- `STBUF` inside the buffer sends the octets of the range (R191). -/
theorem exec_stbuf_inside {s : State} (hs : noError s) {a n : U64} (hrange : a.toNat + n.toNat ≤ s.bufcap) :
    exec (.stbuf a n) s = .next (conclude (send s (bufSlice s a.toNat n.toNat))) := by
  rw [exec, execStbuf, operate_of_noError hs, stbufBody, if_pos hrange]

/-- Settles O27: the octets are the slice of BUF, sent whole or cut. -/
theorem stbufSends : Obligations.StbufSends := by
  refine fun s a n hs => ⟨exec_outside_buffer hs fun _ => rfl, fun hrange => ?_⟩
  have hlength := bufSlice_length s a.toNat n.toNat
  refine ⟨bufSlice s a.toNat n.toNat, hlength, fun i hi => ?_, fun hroom => ?_, fun c hcap hshort => ?_⟩
  · rw [List.getElem?_eq_getElem (by rwa [hlength]), bufSlice_getElem]
  · rw [exec_stbuf_inside hs hrange, send_room (by rwa [hlength]), hlength, conclude_ok, respond]
  · rw [exec_stbuf_inside hs hrange, send_short hcap (by rwa [hlength])]
    exact congrArg _ (conclude_failed
      (s := { s with txs := s.txs ++ (bufSlice s a.toNat n.toNat).take c, txcap := .octets 0 }) hs .txShort)

/-! ### WRBUF and RDBUF -/

/-- Settles O28: one octet is written at its address, once the address is below BUFCAP. -/
theorem wrbufWrites : Obligations.WrbufWrites := by
  refine fun s a v hs => ⟨fun ha => exec_outside_buffer hs (fun _ => rfl) (Nat.lt_succ_of_le ha), fun ha => ?_⟩
  refine ⟨_, exec_wrbuf_inside hs ha v, ?_, fun x hx => ?_, rfl⟩
  · rw [bufRead_congr (respond_buf _ _), bufRead_setBuf_singleton, if_pos rfl]
  · rw [bufRead_congr (respond_buf _ _), bufRead_setBuf_singleton, if_neg hx]

/-- Settles O29: the latch is tested first, then the address, and the octet is answered with no write. -/
theorem rdbufReads : Obligations.RdbufReads :=
  fun _ _ => ⟨fun hs ha => exec_outside_buffer hs (fun _ => rfl) (Nat.lt_succ_of_le ha), fun hs ha => exec_rdbuf_inside hs ha,
    fun he => exec_of_errorState he rfl⟩

end Sys2Proof.Machine
end

section
/-! SUPPORT. The system operations (R210 to R212): the register views as the numbers that `RDREG` answers, the reserved bits of
CTRL, and RESET as the one way out of the error state. -/

namespace Sys2Proof.Machine

/-! ### The register views, widened -/

/-- HDR, widened with zeros, is the opcode with FIN of weight 128 (R31, R210). -/
theorem hdrView_setWidth (fin : Bool) (opc : BitVec 7) :
    (hdrView fin opc).setWidth 64 = BitVec.ofNat 64 ((if fin then 0x80 else 0) + opc.toNat) := by
  have hnum : (hdrView fin opc).toNat = (if fin then 0x80 else 0) + opc.toNat := w1Octet_toNat fin opc
  rw [← BitVec.ofNat_toNat, hnum]

/-- LENF, widened with zeros, is the mask flag in bit 0 (R31, R210). -/
theorem lenfView_setWidth (masked : Bool) : (lenfView masked).setWidth 64 = if masked then 1 else 0 := by
  cases masked <;> rfl

/-- KEY, widened with zeros, has KEY[0] in bits 31 to 24 (R31, R210): four octets fit in the 32 bits of the view. -/
theorem keyView_setWidth (k : Key) : (keyView k).setWidth 64 =
    BitVec.ofNat 64 (k.k0.toNat * 2 ^ 24 + k.k1.toNat * 2 ^ 16 + k.k2.toNat * 2 ^ 8 + k.k3.toNat) := by
  have hnum : (keyView k).toNat = k.k0.toNat * 2 ^ 24 + k.k1.toNat * 2 ^ 16 + k.k2.toNat * 2 ^ 8 + k.k3.toNat := by
    rw [keyView, BitVec.toNat_ofNat]
    omega
  rw [← BitVec.ofNat_toNat, hnum]

/-! ### RDREG -/

/-- The numbers from 6 on name no register (R31, R210). -/
theorem readRegister_reserved (s : State) {r : Octet} (h : 6 ≤ r.toNat) : readRegister s r = none := by
  obtain ⟨n, hn⟩ := Nat.exists_eq_add_of_le' h
  rw [readRegister, hn]
  rfl

/-- `RDREG` of a register answers its contents and changes nothing, whatever is latched (R210, R279). -/
theorem exec_rdreg_value {s : State} {r : Octet} {v : U64} (h : readRegister s r = some v) :
    exec (.rdreg r) s = .next (respond s (.okValue v)) := by
  rw [exec, execRdreg, rdregBody, h, conclude_value]

/-- `RDREG` of a reserved number raises `ReservedField`, whatever is latched (R210). -/
theorem exec_rdreg_reserved (s : State) {r : Octet} (h : 6 ≤ r.toNat) : exec (.rdreg r) s = .next (raise s .reservedField) := by
  rw [exec, execRdreg, rdregBody, readRegister_reserved s h, conclude_error]

/-- Settles O31: each register is its view, widened; a reserved number raises an error, and the first error latched stays. -/
theorem rdregReads : Obligations.RdregReads := by
  intro s
  refine ⟨?ctrl, ?status, ?hdr, ?lenf, ?len, ?key, fun r hr => ⟨fun hs => ?fresh, fun hs => ?latched⟩⟩
  case ctrl => exact exec_rdreg_value (congrArg some (BitVec.ofNat_toNat 64 s.ctrl).symm)
  case status => exact exec_rdreg_value (congrArg some (BitVec.ofNat_toNat 64 s.status).symm)
  case hdr => exact exec_rdreg_value (congrArg some (hdrView_setWidth s.fin s.opc))
  case lenf => exact exec_rdreg_value (congrArg some (lenfView_setWidth s.masked))
  case len => exact exec_rdreg_value rfl
  case key => exact exec_rdreg_value (congrArg some (keyView_setWidth s.key))
  case fresh => rw [exec_rdreg_reserved s hr, raise_failedWith hs, errorCode]
  case latched => rw [exec_rdreg_reserved s hr, raise_of_errorState hs, respond, errorCode]

/-! ### WRREG -/

/-- The reserved bits of CTRL, tested under their mask (R28). -/
theorem reserved_bits_eq_zero_iff (v : Octet) : v.extractLsb' 1 7 = 0 ↔ v &&& 0xFE = 0 := by
  have hmask : v &&& 0xFE = octetFlag (v.extractLsb' 1 7) false := by
    ext k hk
    interval_cases k <;> simp [octetFlag]
  rw [hmask]
  refine ⟨fun h => by rw [h]; rfl, fun h => ?_⟩
  rw [← octetFlag_high (v.extractLsb' 1 7) false, h]
  rfl

/-- `WRREG` of CTRL with its reserved bits 0 (R211). -/
theorem exec_wrreg_ctrl {s : State} (hs : noError s) {v : Octet} (hv : v &&& 0xFE = 0) :
    exec (.wrreg 0 v) s = .next (respond (setCtrl s v) .ok) := by
  rw [exec, execWrreg, operate_of_noError hs, wrregBody, if_neg (not_not.2 rfl),
    if_neg (not_not.2 ((reserved_bits_eq_zero_iff v).2 hv)), conclude_ok]

/-- The body of `WRREG` changes nothing on another register or a reserved bit (R211). -/
theorem wrregBody_reserved (s : State) {r v : Octet} (h : r ≠ 0 ∨ v &&& 0xFE ≠ 0) :
    wrregBody r v s = (s, .error .reservedField) := by
  rw [wrregBody]
  by_cases hr : r = 0
  · have hv : v &&& 0xFE ≠ 0 := h.resolve_left (not_not.2 hr)
    rw [if_neg (not_not.2 hr), if_pos (mt (reserved_bits_eq_zero_iff v).1 hv)]
  · rw [if_pos hr]

/-- Settles O32: the write passes both tests, or one of them raises `ReservedField`. -/
theorem wrregWrites : Obligations.WrregWrites := by
  refine fun s r v hs => ⟨?_, fun h => ?_⟩
  · rintro rfl hv
    exact exec_wrreg_ctrl hs hv
  · rw [exec, execWrreg, operate_of_noError hs, wrregBody_reserved s h, conclude_failed hs, errorCode]

/-! ### RESET -/

/-- `RESET` puts the registers at their reset values, whatever is latched (R212, R279). -/
theorem exec_reset (s : State) : exec .reset s = .next (respond (resetRegisters s) .ok) := rfl

/-- Resetting again changes nothing (R212). -/
theorem resetRegisters_again (s : State) (r : Response) :
    resetRegisters (respond (resetRegisters s) r) = respond (resetRegisters s) r := rfl

/-- Settles O33: the reset values do not depend on the registers, and by O40 no other instruction changes a latched code. -/
theorem resetOperation : Obligations.ResetOperation := by
  refine fun s => ⟨respond (resetRegisters s) .ok, rfl, exec_reset s, ?_, fun hs i u hi h => ?_⟩
  · rw [exec_reset, resetRegisters_again]
    rfl
  · have hkept : errOf u.status = errOf s.status := (firstErrorStays i s u hi h).1 hs
    rwa [errorState, hkept]

end Sys2Proof.Machine
end

section
/-! SUPPORT. SENDFRAME that stops (R233, R245, R279): with nothing to send, at the first octet outside the buffer, and at its first
operation while an error is latched. -/

namespace Sys2Proof.Machine

/-- A frame is sent from its content: `invalid` alone has none (R245). -/
theorem frameContent_eq_some {f : Frame} (h : f ≠ .invalid) : ∃ opc payload, frameContent f = some (opc, payload) := by
  cases f with
  | invalid => exact absurd rfl h
  | text | binary | ping | pong | close => exact ⟨_, _, rfl⟩

/-- The host reads the latched code from an operation that is refused (R279). -/
theorem collect_operate_of_errorState {s : State} (h : errorState s) (body : State → State × Ending) :
    collect (operate s body) = .next (refuse s, .error (.block (errOf s.status))) := by
  rw [operate_of_errorState h, collect, answer_respond, refuse]

/-- SENDFRAME fails as its first part, the copying in of the payload, does (R245). -/
theorem sendFrame_of_writePayload_error {f : Frame} (role : Role) {p : U64} (k : Key) {opc : BitVec 7} {payload : List Octet}
    {s t : State} {e : HostError} (hf : frameContent f = some (opc, payload))
    (h : writePayload p.toNat payload s = .next (t, .error e)) : sendFrame f role p k s = .next (t, .error e) := by
  rw [sendFrame, hf]
  simp only [h, andThen_error]

/-- While an error is latched the first operation is refused: the first `WRBUF`, or `ENCHDR` when the payload is empty (R279). -/
theorem sendFrame_of_errorState {f : Frame} (hf : f ≠ .invalid) {s : State} (h : errorState s) (role : Role) (p : U64) (k : Key) :
    sendFrame f role p k s = .next (refuse s, .error (.block (errOf s.status))) := by
  obtain ⟨opc, payload, hcontent⟩ := frameContent_eq_some hf
  cases payload with
  | cons v rest =>
    refine sendFrame_of_writePayload_error role k hcontent ?_
    rw [writePayload, issueWrbuf, collect_operate_of_errorState h, andThen_error]
  | nil =>
    rw [sendFrame, hcontent]
    simp only [writePayload, finish, andThen_ok]
    rw [issue, exec, execEnchdr, collect_operate_of_errorState h, andThen_error]

/-- Settles O53: an invalid frame has no content; a payload that does not fit is copied in up to BUFCAP, inside its own range; a
latched error refuses the first operation. -/
theorem sendFrameStopsAtFirstError : Obligations.SendFrameStopsAtFirstError := by
  refine fun s f role p k => ⟨?invalid, fun opc payload hf hs hne hout => ?outside, fun hf he => ?latched⟩
  case invalid =>
    rintro rfl
    rfl
  case outside =>
    refine ⟨_, sendFrame_of_writePayload_error role k hf (writePayload_outside hs hne hout), errOf_withErr _ _, rfl, rfl, rfl,
      fun x hx => bufRead_writeList_outside (p := payload.take (s.bufcap - p.toNat)) rfl fun hin => hx ?_⟩
    have hshort := payload.length_take_le (s.bufcap - p.toNat)
    omega
  case latched => exact ⟨_, sendFrame_of_errorState hf he role p k, rfl, rfl, rfl, rfl, rfl⟩

end Sys2Proof.Machine
end

section
/-! SUPPORT. RECVFRAME (R236 to R244) on a stream that begins with a frame's wire format: the leading octet, the length and the key
are read and read back, the payload is loaded and unmasked, and the opcode is dispatched on. -/

namespace Sys2Proof.Machine

/-! ### Reading a response -/

/-- An operation that ends in `OK` is read as 0. -/
theorem issue_ok {i : Instr} {s t : State} (h : exec i s = .next (respond t .ok)) : issue i s = .next (respond t .ok, .ok 0) := by
  rw [issue_next h, answer_respond]

/-- An operation that ends in `OK(v)` is read as `v`. -/
theorem issue_okValue {i : Instr} {s t : State} {v : U64} (h : exec i s = .next (respond t (.okValue v))) :
    issue i s = .next (respond t (.okValue v), .ok v) := by
  rw [issue_next h, answer_respond]

/-- A part that sends no octets succeeds, whatever the capacity. -/
theorem Emits.succeeds_of_nil {o : HostOutcome U64} {s t : State} (h : Emits o s [] t) : o = .next (t, .ok 0) :=
  h.room (by cases s.txcap <;> simp [hasRoom, accepted])

/-- HDR as the host reads it (R31, R210). -/
theorem issue_rdreg_hdr (s : State) : issue (.rdreg 2) s =
    .next (respond s (.okValue ((hdrView s.fin s.opc).setWidth 64)), .ok ((hdrView s.fin s.opc).setWidth 64)) :=
  issue_okValue (exec_rdreg_value rfl)

/-- LENF as the host reads it (R31, R210). -/
theorem issue_rdreg_lenf (s : State) : issue (.rdreg 3) s =
    .next (respond s (.okValue ((lenfView s.masked).setWidth 64)), .ok ((lenfView s.masked).setWidth 64)) :=
  issue_okValue (exec_rdreg_value rfl)

/-- LEN as the host reads it (R31, R210). -/
theorem issue_rdreg_len (s : State) : issue (.rdreg 4) s = .next (respond s (.okValue s.len), .ok s.len) :=
  issue_okValue (exec_rdreg_value rfl)

/-! ### The fields of a frame on the wire -/

/-- The key field of a frame: the key's octets iff there is a key (R99). -/
def keyField : Option Key → List Octet
  | some k => keyOctets k
  | none => []

/-- The payload field of a frame: masked iff there is a key (R99). -/
def payloadField (key : Option Key) (payload : List Octet) : List Octet :=
  match key with
  | some k => maskOctets payload k
  | none => payload

@[simp] theorem payloadField_length (key : Option Key) (payload : List Octet) :
    (payloadField key payload).length = payload.length := by
  cases key with
  | none => rfl
  | some k => exact maskOctets_length payload k

/-- A frame on the wire is its four fields (R90, R99). -/
theorem frameOctets_append (opc : BitVec 7) (fin : Bool) (key : Option Key) (payload rest : List Octet) :
    frameOctets opc fin key payload ++ rest = packHeader opc fin ::
      (packLength (BitVec.ofNat 64 payload.length) key.isSome ++ (keyField key ++ (payloadField key payload ++ rest))) := by
  cases key <;> simp [frameOctets, keyField, payloadField]

/-! ### The leading octet and the length -/

/-- `DECHDR` on a packed header (R132, R134). -/
theorem exec_dechdr_packHeader {s : State} (hs : noError s) {opc : BitVec 7} (hopc : opc.toNat ≤ 15) {fin : Bool}
    {rest : List Octet} (hrx : s.rxs = packHeader opc fin :: rest) :
    exec .dechdr s = .next (respond (setHeader { s with rxs := rest } opc fin) .ok) := by
  have hlegal : packHeader opc fin &&& 0x70 = 0 := w0Octet_reserved_bits fin (opc.extractLsb' 0 4)
  have hfields := unpackHeader_packHeader hopc fin
  rw [unpackHeader_legal hlegal, Option.some.injEq, Prod.mk.injEq] at hfields
  obtain ⟨hlow, hflag⟩ := hfields
  rw [exec_dechdr_legal hs hrx hlegal, hlow, hflag]

/-- A leading octet at the front of the stream is consumed, its fields in OPC and FIN (R132). -/
theorem issue_dechdr_front {s : State} (hs : noError s) {opc : BitVec 7} (hopc : opc.toNat ≤ 15) {fin : Bool}
    {rest : List Octet} (hrx : s.rxs = packHeader opc fin :: rest) :
    ∃ t, issue .dechdr s = .next (t, .ok 0) ∧ noError t ∧ t.rxs = rest ∧ t.bufcap = s.bufcap ∧ t.ctrl = s.ctrl ∧
      t.opc = opc ∧ t.fin = fin :=
  ⟨_, issue_ok (exec_dechdr_packHeader hs hopc hrx), (errOf_withHdrv _).trans hs, rfl, rfl, rfl, rfl, rfl⟩

/-- `DECLEN` on a packed length, in each tier (R153, R155). -/
theorem exec_declen_packLength {s : State} (hs : noError s) {m : Bool} (hm : m = true ∨ rxreq s.ctrl = false) {len : U64}
    {rest : List Octet} (hrx : s.rxs = packLength len m ++ rest) :
    exec .declen s = .next (respond (setLength { s with rxs := rest } len m) .ok) := by
  by_cases h1 : len.toNat ≤ 125
  · have h6 : len.setWidth 7 ≠ 126 := setWidth_ne_of_inline h1 (by decide)
    have h7 : len.setWidth 7 ≠ 127 := setWidth_ne_of_inline h1 (by decide)
    have hfits : len < BitVec.twoPow 64 7 := BitVec.lt_def.2 (h1.trans_lt (by decide))
    rw [packLength_inline m h1, List.singleton_append] at hrx
    rw [exec_declen_inline hs hm hrx (unpackLen7_w1Octet m _) h6 h7, BitVec.setWidth_setWidth_eq_self hfits]
  by_cases h2 : len.toNat ≤ 65535
  · have hfits : len < BitVec.twoPow 64 16 := BitVec.lt_def.2 (h2.trans_lt (by decide))
    rw [packLength_ext16 m (Nat.not_le.1 h1) h2] at hrx
    rw [exec_declen_ext16 hs hm hrx (unpackLen7_w1Octet m _), BitVec.setWidth_setWidth_eq_self hfits]
  · rw [packLength_ext64 m (Nat.not_le.1 h2)] at hrx
    exact exec_declen_ext64 hs hm hrx (unpackLen7_w1Octet m _)

/-- A length field at the front of the stream is consumed, its fields in LEN and MASKED (R153). -/
theorem issue_declen_front {s : State} (hs : noError s) {m : Bool} (hm : m = true ∨ rxreq s.ctrl = false) {len : U64}
    {rest : List Octet} (hrx : s.rxs = packLength len m ++ rest) :
    ∃ t, issue .declen s = .next (t, .ok 0) ∧ noError t ∧ t.rxs = rest ∧ t.bufcap = s.bufcap ∧ t.len = len ∧ t.masked = m :=
  ⟨_, issue_ok (exec_declen_packLength hs hm hrx), (errOf_withLenv _).trans hs, rfl, rfl, rfl, rfl⟩

/-- The host finds the opcode in the low bits of HDR as `RDREG` answers it (R31). -/
theorem hdrView_opcode (fin : Bool) (opc : BitVec 7) : ((hdrView fin opc).setWidth 64).extractLsb' 0 7 = opc := by
  rw [BitVec.extractLsb'_setWidth_of_le (by decide)]
  exact flagOctet_low fin opc

/-- The host finds FIN in bit 7 of HDR as `RDREG` answers it (R31). -/
theorem hdrView_final (fin : Bool) (opc : BitVec 7) : ((hdrView fin opc).setWidth 64).getLsbD 7 = fin := by
  rw [BitVec.getLsbD_setWidth]
  exact flagOctet_flag fin opc

/-- The host finds the mask flag in bit 0 of LENF as `RDREG` answers it (R31). -/
theorem lenfView_flag (m : Bool) : ((lenfView m).setWidth 64).getLsbD 0 = m := by
  cases m <;> rfl

/-! ### The key -/

/-- The key that the frame carries, if any, is loaded. -/
def HasKeyOf (s : State) (key : Option Key) : Prop := ∀ k, key = some k → HasKey s k

/-- The key field of a frame is taken from the stream and loaded (R171, R236). -/
theorem issueIf_ldkey_front {s : State} (hs : noError s) {key : Option Key} {rest : List Octet} (hrx : s.rxs = keyField key ++ rest) :
    ∃ t, issueIf key.isSome .ldkey s = .next (t, .ok 0) ∧ noError t ∧ t.rxs = rest ∧ t.bufcap = s.bufcap ∧ HasKeyOf t key := by
  cases key with
  | none => exact ⟨s, rfl, hs, hrx, rfl, fun _ h => by cases h⟩
  | some k =>
    refine ⟨_, issue_ok (exec_ldkey_front hs hrx), (errOf_withKeyv _).trans hs, rfl, rfl, ?_⟩
    exact fun _ h => ⟨keyvOf_withKeyv _, Option.some.inj h⟩

/-! ### The sequence up to the payload -/

/-- RECVFRAME once the leading octet, the length and the key are read (R236, R237). -/
def recvPayload (opc : BitVec 7) (fin m : Bool) (p len : U64) (s : State) : HostOutcome Frame :=
  if opc = 0 then finish s (.error .unsupportedOperation)
  else
    andThen (issue (.ldbuf p len) s) fun _ s =>
    andThen (issueIf m (.applymask p len) s) fun _ s =>
    dispatchFrame opc fin p len s

/-- The header and the length are consumed, and read back as what was sent (R236). -/
theorem recvFrame_header {s : State} (hs : noError s) {opc : BitVec 7} (hopc : opc.toNat ≤ 15) {fin m : Bool}
    (hm : m = true ∨ rxreq s.ctrl = false) (p : U64) {len : U64} {rest : List Octet}
    (hrx : s.rxs = packHeader opc fin :: (packLength len m ++ rest)) :
    ∃ t, recvFrame p s = (andThen (issueIf m .ldkey t) fun _ t => recvPayload opc fin m p len t) ∧
      noError t ∧ t.rxs = rest ∧ t.bufcap = s.bufcap := by
  obtain ⟨t, hdechdr, ht, htrx, htcap, htctrl, rfl, rfl⟩ := issue_dechdr_front hs hopc hrx
  obtain ⟨u, hdeclen, hu, hurx, hucap, rfl, rfl⟩ :=
    issue_declen_front (s := respond t (.okValue ((hdrView t.fin t.opc).setWidth 64))) ht (by rwa [respond_ctrl, htctrl]) htrx
  refine ⟨respond (respond u (.okValue u.len)) (.okValue ((lenfView u.masked).setWidth 64)), ?_, hu, hurx, hucap.trans htcap⟩
  rw [recvFrame, hdechdr, andThen_ok, issue_rdreg_hdr, andThen_ok, hdeclen, andThen_ok, issue_rdreg_len, andThen_ok,
    issue_rdreg_lenf, andThen_ok]
  simp only [hdrView_opcode, hdrView_final, respond_masked, lenfView_flag, recvPayload]

/-- RECVFRAME up to the payload of a frame at the front of the stream: header, length and key are consumed, the key is loaded
(R236, R237). -/
theorem recvFrame_front {s : State} (hs : noError s) {opc : BitVec 7} (hopc : opc.toNat ≤ 15) {fin : Bool} {key : Option Key}
    (hm : key.isSome = true ∨ rxreq s.ctrl = false) (p : U64) {payload rest : List Octet}
    (hrx : s.rxs = frameOctets opc fin key payload ++ rest) :
    ∃ t, recvFrame p s = recvPayload opc fin key.isSome p (BitVec.ofNat 64 payload.length) t ∧ noError t ∧
      t.rxs = payloadField key payload ++ rest ∧ t.bufcap = s.bufcap ∧ HasKeyOf t key := by
  rw [frameOctets_append] at hrx
  obtain ⟨u, hrun, hu, hurx, hucap⟩ := recvFrame_header hs hopc hm p hrx
  obtain ⟨t, hkey, ht, htrx, htcap, hloaded⟩ := issueIf_ldkey_front hu hurx
  exact ⟨t, by rw [hrun, hkey, andThen_ok], ht, htrx, htcap.trans hucap, hloaded⟩

/-- Settles O56: the opcode is looked at behind the key and before the payload. -/
theorem continuationIsUnsupported : Obligations.ContinuationIsUnsupported := by
  intro s fin key p payload rest hs _ hm hrx
  obtain ⟨t, hrun, ht, htrx, -, -⟩ := recvFrame_front hs (opc := 0) (Nat.zero_le 15) hm p hrx
  exact ⟨t, by rw [hrun, recvPayload, if_pos rfl, finish], ht, htrx⟩

/-! ### The payload -/

/-- The payload field of a frame is taken from the stream into the buffer (R190, R236). -/
theorem issue_ldbuf_front {s : State} (hs : noError s) {a n : U64} {l rest : List Octet} (hn : n.toNat = l.length)
    (hrange : inRange s a.toNat l.length) (hrx : s.rxs = l ++ rest) :
    ∃ t, issue (.ldbuf a n) s = .next (t, .ok 0) ∧ noError t ∧ t.rxs = rest ∧ HoldsPayload t a.toNat l ∧
      ∀ {key}, HasKeyOf s key → HasKeyOf t key := by
  have hexec : exec (.ldbuf a n) s = .next (respond (setBuf { s with rxs := rest } a.toNat l) .ok) := by
    rw [exec_ldbuf_enough hs (by rwa [hn]) (by simp [hrx, hn]), hrx, List.take_left' hn.symm, List.drop_left' hn.symm]
  exact ⟨_, issue_ok hexec, hs, rfl, holdsPayload_of_written (s := s) hrange rfl, id⟩

/-- A payload field in the buffer is unmasked with the key that came with it, if any (R174, R175, R236). -/
theorem issueIf_applymask_unmasks {s : State} (hs : noError s) {key : Option Key} (hkey : HasKeyOf s key) {a n : U64}
    {payload : List Octet} (hn : n.toNat = payload.length) (hp : HoldsPayload s a.toNat (payloadField key payload)) :
    ∃ t, issueIf key.isSome (.applymask a n) s = .next (t, .ok 0) ∧ noError t ∧ t.rxs = s.rxs ∧
      HoldsPayload t a.toNat payload := by
  cases key with
  | none => exact ⟨s, rfl, hs, rfl, hp⟩
  | some k =>
    obtain ⟨t, unmasked, hheld⟩ := emits_applymask hs (hkey k rfl) (by rwa [payloadField_length]) hp
    rw [payloadField, maskInvolution] at hheld
    exact ⟨t, unmasked.succeeds_of_nil, unmasked.ready, unmasked.rxs, hheld⟩

/-- The payload is loaded and unmasked, and then the opcode is dispatched on (R236). -/
theorem recvPayload_dispatches {s : State} (hs : noError s) {opc : BitVec 7} (hopc : opc ≠ 0) (fin : Bool) {key : Option Key}
    (hkey : HasKeyOf s key) {p len : U64} {payload rest : List Octet} (hlen : len.toNat = payload.length)
    (hrange : inRange s p.toNat payload.length) (hrx : s.rxs = payloadField key payload ++ rest) :
    ∃ t, recvPayload opc fin key.isSome p len s = dispatchFrame opc fin p len t ∧ noError t ∧ t.rxs = rest ∧
      HoldsPayload t p.toNat payload := by
  have hfield : len.toNat = (payloadField key payload).length := by rwa [payloadField_length]
  obtain ⟨u, hload, hu, hurx, hloaded, hkept⟩ := issue_ldbuf_front hs hfield (by rwa [payloadField_length]) hrx
  obtain ⟨t, hunmask, ht, htrx, hheld⟩ := issueIf_applymask_unmasks hu (hkept hkey) hlen hloaded
  exact ⟨t, by rw [recvPayload, if_neg hopc, hload, andThen_ok, hunmask, andThen_ok], ht, htrx.trans hurx, hheld⟩

/-! ### The dispatch -/

/-- The payload as the dispatch reads it from BUF (R238, R240). -/
def receivedPayload (s : State) (p len : U64) : Payload :=
  ⟨bufSlice s p.toNat len.toNat, by rw [bufSlice_length]; exact len.isLt⟩

theorem receivedPayload_of_holds {s : State} {p len : U64} {payload : Payload} (hlen : len.toNat = payload.val.length)
    (hp : HoldsPayload s p.toNat payload.val) : receivedPayload s p len = payload :=
  Subtype.ext <| by
    obtain ⟨-, hslice⟩ := hp
    rw [← hslice, ← hlen]
    rfl

theorem dispatchFrame_text (fin : Bool) (p len : U64) (s : State) :
    dispatchFrame 0x1 fin p len s = .next (s, .ok (.text (receivedPayload s p len))) := rfl

theorem dispatchFrame_binary (fin : Bool) (p len : U64) (s : State) :
    dispatchFrame 0x2 fin p len s = .next (s, .ok (.binary (receivedPayload s p len))) := rfl

/-- A Ping or Pong that is final and at most 125 octets long (R240). -/
theorem dispatchFrame_ping {len : U64} (hlen : len.toNat ≤ 125) (p : U64) (s : State) :
    dispatchFrame 0x9 true p len s = .next (s, .ok (.ping (receivedPayload s p len))) := if_pos ⟨rfl, hlen⟩

theorem dispatchFrame_pong {len : U64} (hlen : len.toNat ≤ 125) (p : U64) (s : State) :
    dispatchFrame 0xA true p len s = .next (s, .ok (.pong (receivedPayload s p len))) := if_pos ⟨rfl, hlen⟩

/-- A control frame that is not final or too long (R239, R240). -/
theorem dispatchFrame_controlFrame {opc : BitVec 7} (hopc : opc = 0x8 ∨ opc = 0x9 ∨ opc = 0xA) {fin : Bool} {len : U64}
    (hbad : fin = false ∨ 125 < len.toNat) (p : U64) (s : State) :
    dispatchFrame opc fin p len s = .next (s, .error .controlFrame) := by
  have hcontrol : ¬(fin = true ∧ len.toNat ≤ 125) := fun ⟨hfin, hlen⟩ => by
    rcases hbad with rfl | hlong
    · cases hfin
    · omega
  obtain rfl | rfl | rfl := hopc
  all_goals exact if_neg hcontrol

/-- A Close of fewer than 2 octets has no meaning (R239, U4). -/
theorem dispatchFrame_closeTooShort {len : U64} (hlen : len.toNat < 2) (p : U64) (s : State) :
    dispatchFrame 0x8 true p len s = .refused .closeTooShort :=
  (if_pos ⟨rfl, by omega⟩).trans (if_pos hlen)

/-- An opcode that names no frame (R241). -/
theorem dispatchFrame_unknownOpcode {opc : BitVec 7} (hopc : (3 ≤ opc.toNat ∧ opc.toNat ≤ 7) ∨ (11 ≤ opc.toNat ∧ opc.toNat ≤ 15))
    (fin : Bool) (p len : U64) (s : State) : dispatchFrame opc fin p len s = .next (s, .error .unknownOpcode) := by
  simp only [dispatchFrame]
  split
  case h_6 => rfl
  all_goals omega

/-- Settles O57: one clause per group of opcodes. -/
theorem dispatchChecksControlFrames : Obligations.DispatchChecksControlFrames := by
  refine fun s p n fin => ⟨fun opc hopc hbad => dispatchFrame_controlFrame hopc hbad p s, ?close,
    fun opc hopc => dispatchFrame_unknownOpcode hopc fin p n s,
    receivedPayload s p n, rfl, dispatchFrame_text fin p n s, dispatchFrame_binary fin p n s⟩
  case close =>
    rintro rfl hshort
    exact dispatchFrame_closeTooShort hshort p s

/-- `RDBUF` inside the buffer as the host reads it: nothing but the responses changes (R193). -/
theorem issue_rdbuf_inside {s : State} (hs : noError s) {a : U64} (ha : a.toNat < s.bufcap) :
    ∃ t, issue (.rdbuf a) s = .next (t, .ok ((bufRead s a.toNat).setWidth 64)) ∧ noError t ∧ t.rxs = s.rxs ∧
      t.buf = s.buf ∧ t.bufcap = s.bufcap := by
  have hexec := exec_rdbuf_inside hs ha
  rw [BitVec.ofNat_toNat] at hexec
  exact ⟨_, issue_okValue hexec, hs, rfl, rfl, rfl⟩

/-- A Close of 2 to 125 octets reads its first two octets as the reason code (R239). -/
theorem dispatchFrame_close {len : U64} (htwo : ¬len.toNat < 2) (hlen : len.toNat ≤ 125) (p : U64) (s : State) :
    dispatchFrame 0x8 true p len s =
      andThen (issue (.rdbuf p) s) fun b0 s =>
      andThen (issue (.rdbuf (p + 1)) s) fun b1 s =>
      finish s (.ok (.close (be16 (b0.setWidth 8) (b1.setWidth 8)))) :=
  (if_pos ⟨rfl, hlen⟩).trans (if_neg htwo)

/-- A Close whose reason code stands in the buffer (R239): two octets inside the buffer leave room for the address of the
second. -/
theorem dispatchFrame_close_reason {s : State} (hs : noError s) {p : U64} (hwrap : p.toNat + 2 ≤ 2 ^ 64) {reason : BitVec 16}
    (hp : HoldsPayload s p.toNat (bytes16 reason)) :
    ∃ t, dispatchFrame 0x8 true p 2 s = .next (t, .ok (.close reason)) ∧ noError t ∧ t.rxs = s.rxs := by
  obtain ⟨hrange, hslice⟩ := hp
  rw [inRange, bytes16_length] at hrange
  have hnext : (p + 1).toNat = p.toNat + 1 := by bv_omega
  have hreason : be16 (bufRead s p.toNat) (bufRead s (p + 1).toNat) = reason := by
    rw [hnext, ← u16At_bytes16 reason, ← hslice]
    rfl
  obtain ⟨t, hfirst, ht, htrx, htbuf, htcap⟩ := issue_rdbuf_inside hs (show p.toNat < s.bufcap by omega)
  obtain ⟨u, hsecond, hu, hurx, -, -⟩ := issue_rdbuf_inside ht (show (p + 1).toNat < t.bufcap by omega)
  refine ⟨u, ?_, hu, hurx.trans htrx⟩
  rw [dispatchFrame_close (by decide) (by decide), hfirst, andThen_ok, hsecond, andThen_ok, bufRead_congr htbuf]
  simp only [BitVec.setWidth_setWidth_of_le _ (show 8 ≤ 64 by decide), BitVec.setWidth_eq, hreason, finish]

/-- The dispatch on a sendable frame's opcode, with the frame's payload in the buffer, answers the frame (R238 to R240). -/
theorem dispatchFrame_content {f : Frame} {opc : BitVec 7} {payload : List Octet} (hf : frameContent f = some (opc, payload))
    {s : State} (hs : noError s) {p len : U64} (hlen : len.toNat = payload.length) (hwrap : p.toNat + payload.length ≤ 2 ^ 64)
    (hcontrol : 8 ≤ opc.toNat → payload.length ≤ 125) (hp : HoldsPayload s p.toNat payload) :
    ∃ t, dispatchFrame opc true p len s = .next (t, .ok f) ∧ noError t ∧ t.rxs = s.rxs := by
  cases f with
  | invalid => cases hf
  | text l =>
    cases hf
    exact ⟨s, by rw [dispatchFrame_text, receivedPayload_of_holds hlen hp], hs, rfl⟩
  | binary l =>
    cases hf
    exact ⟨s, by rw [dispatchFrame_binary, receivedPayload_of_holds hlen hp], hs, rfl⟩
  | ping l =>
    cases hf
    have hshort : len.toNat ≤ 125 := hlen.trans_le (hcontrol (by decide))
    exact ⟨s, by rw [dispatchFrame_ping hshort, receivedPayload_of_holds hlen hp], hs, rfl⟩
  | pong l =>
    cases hf
    have hshort : len.toNat ≤ 125 := hlen.trans_le (hcontrol (by decide))
    exact ⟨s, by rw [dispatchFrame_pong hshort, receivedPayload_of_holds hlen hp], hs, rfl⟩
  | close reason =>
    cases hf
    obtain rfl : len = 2 := BitVec.eq_of_toNat_eq hlen
    exact dispatchFrame_close_reason hs hwrap hp

/-! ### A frame received -/

/-- The opcode of a frame to send is none that RECVFRAME stops at (R237, R248). -/
theorem frameContent_opcode_ne_zero {f : Frame} {opc : BitVec 7} {payload : List Octet}
    (h : frameContent f = some (opc, payload)) : opc ≠ 0 := by
  cases f with
  | invalid => cases h
  | text | binary | ping | pong | close => cases h; decide

/-- Settles O54: what stands behind the key is the payload field, which is loaded, unmasked and dispatched on. -/
theorem recvFrameReadsWireFormat : Obligations.RecvFrameReadsWireFormat := by
  intro s f key p opc payload rest hf hs hcap hrange hcontrol hm hrx
  obtain ⟨hopc, hlen⟩ := frameContent_bounds hf
  obtain ⟨t, hfront, ht, htrx, htcap, hkey⟩ := recvFrame_front hs hopc hm p hrx
  obtain ⟨u, hload, hu, hurx, hheld⟩ :=
    recvPayload_dispatches ht (frameContent_opcode_ne_zero hf) true hkey hlen (by rwa [inRange, htcap]) htrx
  obtain ⟨v, hdispatch, hv, hvrx⟩ := dispatchFrame_content hf hu hlen (hrange.trans hcap) hcontrol hheld
  exact ⟨v, by rw [hfront, hload, hdispatch], hvrx.trans hurx, hv⟩

/-- A host masks what it sends iff it is a client (R246). -/
theorem isSome_key_of_role {role : Role} (h : role = .client) (k : Key) :
    (if role = .client then some k else none).isSome = true := by
  rw [if_pos h]
  rfl

/-- Settles O55: what is sent is the wire format (O52), and that is received as the frame (O54). -/
theorem frameRoundTrip : Obligations.FrameRoundTrip := by
  intro s r f role p q k opc payload rest hf hcontrol hs hroom hrange hr hcap hrange' hmask
  obtain ⟨t, sent⟩ := emits_sendFrame role k hf hs hrange
  refine ⟨t, _, sent.room hroom, sent.txs, fun hrx => ?_⟩
  exact recvFrameReadsWireFormat r f _ q opc payload rest hf hr hcap hrange' hcontrol
    (hmask.imp_left fun hrole => isSome_key_of_role hrole k) hrx

end Sys2Proof.Machine
end

section
/-! SUPPORT. The exceptions (R274, R279): the mask flag of a length octet against RXREQ, whatever the tier, and the commands in the
error state. -/

namespace Sys2Proof.Machine

/-! ### MaskBitRequired -/

/-- An extension of `x` octets that the stream still holds (R68, R153). -/
theorem readExtension_enough {s : State} (m : Bool) {x : Nat} (value : List Octet → U64) (h : x ≤ s.rxs.length) :
    readExtension s m x value = (setLength { s with rxs := s.rxs.drop x } (value (s.rxs.take x)) m, .ok) := by
  simp only [readExtension, rxRead_enough h]

/-- A whole length field with an accepted mask flag is decoded, whatever its tier (R153). -/
theorem decodeLength_whole {s : State} {m : Bool} (hm : m = true ∨ rxreq s.ctrl = false) {c : BitVec 7}
    (hwhole : extensionOctets c ≤ s.rxs.length) :
    ∃ n rest, decodeLength s m c = (setLength { s with rxs := rest } n m, .ok) := by
  by_cases h6 : c = 126
  · subst h6
    exact ⟨_, _, (decodeLength_ext16 s hm).trans (readExtension_enough m _ hwhole)⟩
  by_cases h7 : c = 127
  · subst h7
    exact ⟨_, _, (decodeLength_ext64 s hm).trans (readExtension_enough m _ hwhole)⟩
  · exact ⟨_, s.rxs, decodeLength_inline s hm h6 h7⟩

/-- Settles O18: the flag is tested before the length code; with RXREQ clear the test lets either flag pass. -/
theorem declenMaskBitRequired : Obligations.DeclenMaskBitRequired := by
  refine ⟨fun s b rest hs hrx hflag hreq => ?_, fun s b rest hs hrx hreq hwhole => ?_⟩
  · have hb : unpackLen7 b = (false, b.extractLsb' 0 7) := by rw [unpackLen7, hflag]
    rw [exec, execDeclen, operate_declenBody hs hrx hb, decodeLength_maskRequired { s with rxs := rest } _ hreq]
    exact congrArg _ (conclude_failed (s := { s with rxs := rest }) hs .maskBitRequired)
  · obtain ⟨n, left, hdecode⟩ := decodeLength_whole (s := { s with rxs := rest }) (m := b.getLsbD 7) (.inr hreq) hwhole
    rw [exec, execDeclen, operate_declenBody hs hrx rfl, hdecode, conclude_ok]
    exact ⟨_, rfl, rfl, rfl⟩

/-! ### The error state -/

/-- `RDREG` and `RESET` alone run in the error state (R279). -/
theorem runsInErrorState_eq_false {i : Instr} (hreset : i ≠ .reset) (hrdreg : ∀ r, i ≠ .rdreg r) : runsInErrorState i = false := by
  cases i with
  | rdreg r => exact absurd rfl (hrdreg r)
  | reset => exact absurd rfl hreset
  | _ => rfl

/-- The numbers up to 5 each name a register (R31). -/
theorem readRegister_exists (s : State) {r : Octet} (h : r.toNat ≤ 5) : ∃ v, readRegister s r = some v := by
  unfold readRegister
  interval_cases r.toNat <;> exact ⟨_, rfl⟩

/-- Settles O39: a refusal for every command but two; `RDREG` answers the value or its own error over the latched one; the reset
value of STATUS has no error. -/
theorem latchedErrorRefuses : Obligations.LatchedErrorRefuses := by
  refine fun s hs => ⟨fun i hi hreset hrdreg => ?refused, fun r hr => ?register, fun r hr => ?reserved, ?reset⟩
  case refused =>
    have hrun : runsInErrorState i = false := runsInErrorState_eq_false hreset hrdreg
    rw [exec_of_errorState hs hrun, wireOctets_command hi, arrive_nil, refuse, respond]
  case register =>
    obtain ⟨v, hv⟩ := readRegister_exists s hr
    exact ⟨v, hv, exec_rdreg_value hv⟩
  case reserved => rw [exec_rdreg_reserved s hr, raise_of_errorState hs, respond, errorCode]
  case reset => exact ⟨_, exec_reset s, rfl⟩

end Sys2Proof.Machine
end
